-- ==== Sys2Proof/Word.lean ====
section
/-! DEFINITION. The word types of the block: a register byte, a timer word, a stimulus word
(00_scope.md R7, R10; 30_encoding.md R100). -/

namespace Sys2Proof

/-- A byte of the 8-bit bus: every register datum (20_memory.md R83). -/
abbrev Byte := BitVec 8

/-- A 16-bit timer count or latch, and the working shift register (00_scope.md R7). -/
abbrev Half := BitVec 16

/-- A 16-bit stimulus word: the encoding of one operation (30_encoding.md R100). -/
abbrev Word := BitVec 16

end Sys2Proof
end

