-- ==== Sys2Proof/Syntax.lean ====
section
/-! DEFINITION. The syntax of the block's operations: the sixteen registers, the 58 operations (one constructor
of `Instr` for each row of spec/opcode_table.json), the four formats of the stimulus word, and the lines of a
stimulus script. -/

namespace Sys2Proof

/-- The sixteen bus-visible registers, in the order of their offsets (00_scope.md R14; 10_state.md R24). -/
inductive Reg where
  | pra
  | prb
  | ddra
  | ddrb
  | talo
  | tahi
  | tblo
  | tbhi
  | tod10
  | todsec
  | todmin
  | todhr
  | sdr
  | icr
  | cra
  | crb
deriving DecidableEq, Repr

/-- The 58 operations of 30_encoding.md R101. Bits the spec says an operation ignores are no operand of it
(R102, R103): a load and a peek have none, a store has its data byte, `CNT` and `SP` have one level, `SETSDR`,
`PINA`, `PINB` have a byte. -/
inductive Instr where
  /-- `LD.PRA`, R121 -/
  | ldPra
  /-- `LD.PRB`, R124 -/
  | ldPrb
  /-- `LD.DDRA`, R127 -/
  | ldDdra
  /-- `LD.DDRB`, R130 -/
  | ldDdrb
  /-- `LD.TALO`, R151 -/
  | ldTalo
  /-- `LD.TAHI`, R154 -/
  | ldTahi
  /-- `LD.TBLO`, R157 -/
  | ldTblo
  /-- `LD.TBHI`, R160 -/
  | ldTbhi
  /-- `LD.TOD10`, R196 -/
  | ldTod10
  /-- `LD.TODSEC`, R199 -/
  | ldTodsec
  /-- `LD.TODMIN`, R202 -/
  | ldTodmin
  /-- `LD.TODHR`, R205 -/
  | ldTodhr
  /-- `LD.SDR`, R226 -/
  | ldSdr
  /-- `LD.ICR`, R244 -/
  | ldIcr
  /-- `LD.CRA`, R163 -/
  | ldCra
  /-- `LD.CRB`, R166 -/
  | ldCrb
  /-- `ST.PRA`, R120 -/
  | stPra (v : Byte)
  /-- `ST.PRB`, R123 -/
  | stPrb (v : Byte)
  /-- `ST.DDRA`, R126 -/
  | stDdra (v : Byte)
  /-- `ST.DDRB`, R129 -/
  | stDdrb (v : Byte)
  /-- `ST.TALO`, R150 -/
  | stTalo (v : Byte)
  /-- `ST.TAHI`, R153 -/
  | stTahi (v : Byte)
  /-- `ST.TBLO`, R156 -/
  | stTblo (v : Byte)
  /-- `ST.TBHI`, R159 -/
  | stTbhi (v : Byte)
  /-- `ST.TOD10`, R195 -/
  | stTod10 (v : Byte)
  /-- `ST.TODSEC`, R198 -/
  | stTodsec (v : Byte)
  /-- `ST.TODMIN`, R201 -/
  | stTodmin (v : Byte)
  /-- `ST.TODHR`, R204 -/
  | stTodhr (v : Byte)
  /-- `ST.SDR`, R225 -/
  | stSdr (v : Byte)
  /-- `ST.ICR`, R243 -/
  | stIcr (v : Byte)
  /-- `ST.CRA`, R162 -/
  | stCra (v : Byte)
  /-- `ST.CRB`, R165 -/
  | stCrb (v : Byte)
  /-- `PK.PRA`, R122 -/
  | pkPra
  /-- `PK.PRB`, R125 -/
  | pkPrb
  /-- `PK.DDRA`, R128 -/
  | pkDdra
  /-- `PK.DDRB`, R131 -/
  | pkDdrb
  /-- `PK.TALO`, R152 -/
  | pkTalo
  /-- `PK.TAHI`, R155 -/
  | pkTahi
  /-- `PK.TBLO`, R158 -/
  | pkTblo
  /-- `PK.TBHI`, R161 -/
  | pkTbhi
  /-- `PK.TOD10`, R197 -/
  | pkTod10
  /-- `PK.TODSEC`, R200 -/
  | pkTodsec
  /-- `PK.TODMIN`, R203 -/
  | pkTodmin
  /-- `PK.TODHR`, R206 -/
  | pkTodhr
  /-- `PK.SDR`, R227 -/
  | pkSdr
  /-- `PK.ICR`, R245 -/
  | pkIcr
  /-- `PK.CRA`, R164 -/
  | pkCra
  /-- `PK.CRB`, R167 -/
  | pkCrb
  /-- `PHI2`, 41_timers.md R170 -/
  | phi2
  /-- `TODTICK`, 42_tod.md R210 -/
  | todtick
  /-- `CNT`, 41_timers.md R171 -/
  | cnt (level : Bool)
  /-- `SP`, 43_sdr.md R228 -/
  | sp (level : Bool)
  /-- `FLAG`, 44_icr.md R246 -/
  | flag
  /-- `SETSDR`, 43_sdr.md R229 -/
  | setsdr (v : Byte)
  /-- `PINA`, 40_ports.md R133 -/
  | pina (v : Byte)
  /-- `PINB`, 40_ports.md R134 -/
  | pinb (v : Byte)
  /-- `RESET`, 45_system.md R261 -/
  | reset
  /-- `DISABLE`, 45_system.md R262 -/
  | disable
deriving DecidableEq, Repr

/-- The ten events of 30_encoding.md R101, each with the operand the spec reads from `arg` (R103). -/
inductive Event where
  | phi2
  | todtick
  | cnt (level : Bool)
  | sp (level : Bool)
  | flag
  | setsdr (v : Byte)
  | pina (v : Byte)
  | pinb (v : Byte)
  | reset
  | disable
deriving DecidableEq, Repr

/-- An operation seen by the format of its stimulus word (30_encoding.md R100): a bus read, store or peek of a
register, or an event. -/
inductive Shape where
  | load (r : Reg)
  | store (r : Reg) (v : Byte)
  | peek (r : Reg)
  | event (e : Event)
deriving DecidableEq, Repr

/-- The operation `LD.r`. -/
def Instr.ofLoad : Reg → Instr
  | .pra => .ldPra
  | .prb => .ldPrb
  | .ddra => .ldDdra
  | .ddrb => .ldDdrb
  | .talo => .ldTalo
  | .tahi => .ldTahi
  | .tblo => .ldTblo
  | .tbhi => .ldTbhi
  | .tod10 => .ldTod10
  | .todsec => .ldTodsec
  | .todmin => .ldTodmin
  | .todhr => .ldTodhr
  | .sdr => .ldSdr
  | .icr => .ldIcr
  | .cra => .ldCra
  | .crb => .ldCrb

/-- The operation `ST.r v`. -/
def Instr.ofStore (r : Reg) (v : Byte) : Instr :=
  match r with
  | .pra => .stPra v
  | .prb => .stPrb v
  | .ddra => .stDdra v
  | .ddrb => .stDdrb v
  | .talo => .stTalo v
  | .tahi => .stTahi v
  | .tblo => .stTblo v
  | .tbhi => .stTbhi v
  | .tod10 => .stTod10 v
  | .todsec => .stTodsec v
  | .todmin => .stTodmin v
  | .todhr => .stTodhr v
  | .sdr => .stSdr v
  | .icr => .stIcr v
  | .cra => .stCra v
  | .crb => .stCrb v

/-- The operation `PK.r`. -/
def Instr.ofPeek : Reg → Instr
  | .pra => .pkPra
  | .prb => .pkPrb
  | .ddra => .pkDdra
  | .ddrb => .pkDdrb
  | .talo => .pkTalo
  | .tahi => .pkTahi
  | .tblo => .pkTblo
  | .tbhi => .pkTbhi
  | .tod10 => .pkTod10
  | .todsec => .pkTodsec
  | .todmin => .pkTodmin
  | .todhr => .pkTodhr
  | .sdr => .pkSdr
  | .icr => .pkIcr
  | .cra => .pkCra
  | .crb => .pkCrb

/-- The operation of an event. -/
def Instr.ofEvent : Event → Instr
  | .phi2 => .phi2
  | .todtick => .todtick
  | .cnt level => .cnt level
  | .sp level => .sp level
  | .flag => .flag
  | .setsdr v => .setsdr v
  | .pina v => .pina v
  | .pinb v => .pinb v
  | .reset => .reset
  | .disable => .disable

/-- The operation of a shape. -/
def Instr.ofShape : Shape → Instr
  | .load r => .ofLoad r
  | .store r v => .ofStore r v
  | .peek r => .ofPeek r
  | .event e => .ofEvent e

/-- The shape of an operation. -/
def Instr.shape : Instr → Shape
  | .ldPra => .load .pra
  | .ldPrb => .load .prb
  | .ldDdra => .load .ddra
  | .ldDdrb => .load .ddrb
  | .ldTalo => .load .talo
  | .ldTahi => .load .tahi
  | .ldTblo => .load .tblo
  | .ldTbhi => .load .tbhi
  | .ldTod10 => .load .tod10
  | .ldTodsec => .load .todsec
  | .ldTodmin => .load .todmin
  | .ldTodhr => .load .todhr
  | .ldSdr => .load .sdr
  | .ldIcr => .load .icr
  | .ldCra => .load .cra
  | .ldCrb => .load .crb
  | .stPra v => .store .pra v
  | .stPrb v => .store .prb v
  | .stDdra v => .store .ddra v
  | .stDdrb v => .store .ddrb v
  | .stTalo v => .store .talo v
  | .stTahi v => .store .tahi v
  | .stTblo v => .store .tblo v
  | .stTbhi v => .store .tbhi v
  | .stTod10 v => .store .tod10 v
  | .stTodsec v => .store .todsec v
  | .stTodmin v => .store .todmin v
  | .stTodhr v => .store .todhr v
  | .stSdr v => .store .sdr v
  | .stIcr v => .store .icr v
  | .stCra v => .store .cra v
  | .stCrb v => .store .crb v
  | .pkPra => .peek .pra
  | .pkPrb => .peek .prb
  | .pkDdra => .peek .ddra
  | .pkDdrb => .peek .ddrb
  | .pkTalo => .peek .talo
  | .pkTahi => .peek .tahi
  | .pkTblo => .peek .tblo
  | .pkTbhi => .peek .tbhi
  | .pkTod10 => .peek .tod10
  | .pkTodsec => .peek .todsec
  | .pkTodmin => .peek .todmin
  | .pkTodhr => .peek .todhr
  | .pkSdr => .peek .sdr
  | .pkIcr => .peek .icr
  | .pkCra => .peek .cra
  | .pkCrb => .peek .crb
  | .phi2 => .event .phi2
  | .todtick => .event .todtick
  | .cnt level => .event (.cnt level)
  | .sp level => .event (.sp level)
  | .flag => .event .flag
  | .setsdr v => .event (.setsdr v)
  | .pina v => .event (.pina v)
  | .pinb v => .event (.pinb v)
  | .reset => .event .reset
  | .disable => .event .disable

/-- One line of a stimulus script (30_encoding.md R108), with its numbers as they are written: `WellFormed`
says which are in range. -/
inductive ScriptLine where
  /-- `LD.<reg>` -/
  | load (r : Reg)
  /-- `ST.<reg> <byte>` -/
  | store (r : Reg) (byte : Nat)
  /-- `PK.<reg>` -/
  | peek (r : Reg)
  /-- `LD @<addr>` -/
  | loadAt (addr : Nat)
  /-- `ST @<addr> <byte>` -/
  | storeAt (addr byte : Nat)
  /-- `PK @<addr>` -/
  | peekAt (addr : Nat)
  /-- `PHI2*n` (`PHI2` alone is `PHI2*1`) -/
  | phi2 (n : Nat)
  /-- `TODTICK*n` (`TODTICK` alone is `TODTICK*1`) -/
  | todtick (n : Nat)
  /-- `CNT <bit>` -/
  | cnt (bit : Nat)
  /-- `SP <bit>` -/
  | sp (bit : Nat)
  /-- `FLAG` -/
  | flag
  /-- `SETSDR <byte>` -/
  | setsdr (byte : Nat)
  /-- `PINA <byte>` -/
  | pina (byte : Nat)
  /-- `PINB <byte>` -/
  | pinb (byte : Nat)
  /-- `RESET` -/
  | reset
  /-- `DISABLE` -/
  | disable
  /-- `CNTPULSE*n` (`CNTPULSE` alone is `CNTPULSE*1`) -/
  | cntpulse (n : Nat)
  /-- `ST16.TA $hhll` -/
  | st16Ta (value : Nat)
  /-- `ST16.TB $hhll` -/
  | st16Tb (value : Nat)
  /-- `SETTOD $hr $mn $sc $t` -/
  | settod (hr min sec ten : Nat)
  /-- `RDTOD` -/
  | rdtod
deriving DecidableEq, Repr

end Sys2Proof
end

