-- ==== Sys2Proof/WellFormed.lean ====
section
/-! DEFINITION. Well-formedness. An operand of `Instr` has exactly the width the spec gives it, so every term of
`Instr` is well-formed (30_encoding.md R105: all 16 registers accept all three formats and all 256 data values).
The numbers of a script line have the ranges of 30_encoding.md R108, and a stimulus word is legal where R105 says. -/

namespace Sys2Proof

/-- Every operation of the type is one of the 58 with operands in range (30_encoding.md R101, R105): the types
of the operands carry the whole check, so no ill-formed term of `Instr` can be written down. -/
def Instr.wf (_ : Instr) : Bool := true

/-- A stimulus word that encodes an operation (30_encoding.md R105): a bus format, or an event code 0 to 9. -/
def wordLegal (w : Word) : Bool :=
  w.toNat / 2 ^ 14 != 3 || decide (w.toNat / 2 ^ 8 % 2 ^ 6 < 10)

/-- `<byte>` of a script line: 0 to 255 (30_encoding.md R108). -/
def byteInRange (n : Nat) : Bool := decide (n < 256)

/-- `<bit>` of a script line: 0 or 1 (30_encoding.md R108). -/
def bitInRange (n : Nat) : Bool := decide (n < 2)

/-- `<addr>` of a script line: 0 to 63 (30_encoding.md R108). -/
def addrInRange (n : Nat) : Bool := decide (n < 64)

/-- `$hhll` of a 16-bit store: 0 to 65535 (30_encoding.md R109). -/
def halfInRange (n : Nat) : Bool := decide (n < 65536)

/-- The numbers of a script line are in the ranges of 30_encoding.md R108 and R109. -/
def ScriptLine.wf : ScriptLine → Bool
  | .load _ | .peek _ | .flag | .reset | .disable | .rdtod => true
  | .phi2 _ | .todtick _ | .cntpulse _ => true
  | .store _ byte | .setsdr byte | .pina byte | .pinb byte => byteInRange byte
  | .loadAt addr | .peekAt addr => addrInRange addr
  | .storeAt addr byte => addrInRange addr && byteInRange byte
  | .cnt bit | .sp bit => bitInRange bit
  | .st16Ta value | .st16Tb value => halfInRange value
  | .settod hr min sec ten => byteInRange hr && byteInRange min && byteInRange sec && byteInRange ten

end Sys2Proof
end

