-- ==== Sys2Proof/Decode.lean ====
section
/-! DEFINITION. The decoder of stimulus words and, after it, the encoder, both from the tables of
30_encoding.md (R100 to R105). The decoder is total: it answers an operation or a rejection by name. -/

namespace Sys2Proof

/-! ## The fields of a stimulus word (R100, R102, R103) -/

/-- Bits 15:14, the format. -/
def fmtOf (w : Word) : BitVec 2 := w.extractLsb' 14 2

/-- Bits 11:8, the effective register number `a = addr6 & $F`: bits 13:12 are ignored (R102). -/
def regNoOf (w : Word) : BitVec 4 := w.extractLsb' 8 4

/-- Bits 13:8, the event code, all six significant (R103). -/
def codeOf (w : Word) : BitVec 6 := w.extractLsb' 8 6

/-- Bits 7:0, `data` of a store and `arg` of an event. -/
def dataOf (w : Word) : Byte := w.extractLsb' 0 8

/-- The level of a `CNT` or `SP` word: `arg[0]` (R103). -/
def levelOf (arg : Byte) : Bool := arg.getLsbD 0

/-! ## Register offsets (00_scope.md R14) -/

/-- The offset of a register. -/
def Reg.offset : Reg → BitVec 4
  | .pra => 0#4
  | .prb => 1#4
  | .ddra => 2#4
  | .ddrb => 3#4
  | .talo => 4#4
  | .tahi => 5#4
  | .tblo => 6#4
  | .tbhi => 7#4
  | .tod10 => 8#4
  | .todsec => 9#4
  | .todmin => 10#4
  | .todhr => 11#4
  | .sdr => 12#4
  | .icr => 13#4
  | .cra => 14#4
  | .crb => 15#4

/-- The register at an offset. -/
def Reg.ofOffset (a : BitVec 4) : Reg :=
  match a.toNat with
  | 0 => .pra
  | 1 => .prb
  | 2 => .ddra
  | 3 => .ddrb
  | 4 => .talo
  | 5 => .tahi
  | 6 => .tblo
  | 7 => .tbhi
  | 8 => .tod10
  | 9 => .todsec
  | 10 => .todmin
  | 11 => .todhr
  | 12 => .sdr
  | 13 => .icr
  | 14 => .cra
  | _ => .crb

/-- The register that an address of any width reaches: `a = addr & $F` (20_memory.md R81). -/
def Reg.ofAddr (addr : Nat) : Reg := .ofOffset (BitVec.ofNat 4 addr)

/-! ## The decoder -/

/-- Why a word has no operation. -/
inductive Reject where
  /-- An event word whose code is 10 to 63, `$CA00` to `$FFFF` (30_encoding.md R105). -/
  | reservedEvent (code : BitVec 6)
deriving DecidableEq, Repr

/-- The event of a code and its `arg` (30_encoding.md R101, R103). -/
def decodeEvent (code : BitVec 6) (arg : Byte) : Except Reject Event :=
  match code.toNat with
  | 0 => .ok .phi2
  | 1 => .ok .todtick
  | 2 => .ok (.cnt (levelOf arg))
  | 3 => .ok (.sp (levelOf arg))
  | 4 => .ok .flag
  | 5 => .ok (.setsdr arg)
  | 6 => .ok (.pina arg)
  | 7 => .ok (.pinb arg)
  | 8 => .ok .reset
  | 9 => .ok .disable
  | _ => .error (.reservedEvent code)

/-- The operation a stimulus word encodes (30_encoding.md R100, R110). -/
def decode (w : Word) : Except Reject Instr :=
  match (fmtOf w).toNat with
  | 0 => .ok (.ofLoad (.ofOffset (regNoOf w)))
  | 1 => .ok (.ofStore (.ofOffset (regNoOf w)) (dataOf w))
  | 2 => .ok (.ofPeek (.ofOffset (regNoOf w)))
  | _ =>
    match decodeEvent (codeOf w) (dataOf w) with
    | .ok e => .ok (.ofEvent e)
    | .error r => .error r

/-- The word a row's bits stand for: the low `nbits` bits of `w`, every bit above them 0. -/
def tableWord (nbits w : Nat) : Word := BitVec.ofNat 16 (w % 2 ^ nbits)

/-- What the decoder reads from the bits `w` of a row of spec/opcode_table.json, none where it rejects. -/
def decodeTableWord (nbits w : Nat) : Option Instr :=
  match decode (tableWord nbits w) with
  | .ok i => some i
  | .error _ => none

/-! ## The encoder (30_encoding.md R104): canonical words, every ignored bit 0 -/

/-- A bus word: format, ignored bits 13:12 clear, register number, data. -/
def busWord (fmt : BitVec 2) (r : Reg) (data : Byte) : Word := fmt ++ 0#2 ++ r.offset ++ data

/-- An event word: format `11`, code, argument. -/
def eventWord (code : BitVec 6) (arg : Byte) : Word := 3#2 ++ code ++ arg

/-- `arg` of a level: bit 0, the ignored bits clear. -/
def levelArg (level : Bool) : Byte := 0#7 ++ BitVec.ofBool level

/-- The canonical word of an event. -/
def encodeEvent : Event → Word
  | .phi2 => eventWord 0 0
  | .todtick => eventWord 1 0
  | .cnt level => eventWord 2 (levelArg level)
  | .sp level => eventWord 3 (levelArg level)
  | .flag => eventWord 4 0
  | .setsdr v => eventWord 5 v
  | .pina v => eventWord 6 v
  | .pinb v => eventWord 7 v
  | .reset => eventWord 8 0
  | .disable => eventWord 9 0

/-- The canonical word of an operation. -/
def encode (i : Instr) : Word :=
  match i.shape with
  | .load r => busWord 0 r 0
  | .store r v => busWord 1 r v
  | .peek r => busWord 2 r 0
  | .event e => encodeEvent e

/-! ## The rows of the opcode table (30_encoding.md R104, R110) -/

/-- The code of an event (30_encoding.md R101). -/
def Event.code : Event → BitVec 6
  | .phi2 => 0
  | .todtick => 1
  | .cnt _ => 2
  | .sp _ => 3
  | .flag => 4
  | .setsdr _ => 5
  | .pina _ => 6
  | .pinb _ => 7
  | .reset => 8
  | .disable => 9

/-- The bits that select an operation's row: `$CF00` for a bus operation, `$FF00` for an event (R104). -/
def rowMask (i : Instr) : Word :=
  match i.shape with
  | .load _ | .store _ _ | .peek _ => 0xCF00#16
  | .event _ => 0xFF00#16

/-- What those bits must read: `(f << 14) | (a << 8)`, or `$C000 | (c << 8)` (R104). -/
def rowMatch (i : Instr) : Word :=
  match i.shape with
  | .load r => r.offset.zeroExtend 16 <<< 8
  | .store r _ => 0x4000#16 ||| r.offset.zeroExtend 16 <<< 8
  | .peek r => 0x8000#16 ||| r.offset.zeroExtend 16 <<< 8
  | .event e => 0xC000#16 ||| e.code.zeroExtend 16 <<< 8

/-- The bits of a word that its operation does not ignore (30_encoding.md R102, R103): the row's bits, and the
operand's: all of `data` for a store, `arg` for `SETSDR`, `PINA`, `PINB`, and `arg[0]` for `CNT` and `SP`. -/
def significantBits (i : Instr) : Word :=
  rowMask i |||
    match i.shape with
    | .load _ | .peek _ => 0#16
    | .store _ _ => 0x00FF#16
    | .event (.cnt _) | .event (.sp _) => 0x0001#16
    | .event (.setsdr _) | .event (.pina _) | .event (.pinb _) => 0x00FF#16
    | .event .phi2 | .event .todtick | .event .flag | .event .reset | .event .disable => 0#16

end Sys2Proof
end

