-- ==== Sys2Proof/Config.lean ====
section
/-! DEFINITION. The construction-time parameters of one instance (00_scope.md R6, R21). None of them is
state of the block: no operation changes them. -/

namespace Sys2Proof

/-- The silicon revision `MODEL`, a two-valued type as 00_scope.md R8 asks, so that no invalid tag can be
written down. -/
inductive Model where
  | old6526
  | new6526A
deriving DecidableEq, Repr, Inhabited

/-- The CPU line the block drives, `IRQ_LINE` (00_scope.md R6; 60_exceptions.md R286). -/
inductive IrqKind where
  | irq
  | nmi
deriving DecidableEq, Repr, Inhabited

/-- The configuration record of 00_scope.md R6. `START_DELAY` is not a field: it is the function
`Sys2Proof.Machine.startDelay` of `model`. -/
structure Config where
  /-- `MODEL` -/
  model : Model
  /-- `IRQ_LINE`, copied into each `IrqLine` event -/
  irqLine : IrqKind
  /-- `CTX_ID`, copied into each `IrqLine` event -/
  ctxId : Nat
  /-- `TB_BUG_LOSS`, an OPEN parameter with no default (92_eei_decisions.md D9) -/
  tbBugLoss : Nat
  /-- `SDR_DELAY`, an OPEN parameter with no default (92_eei_decisions.md D10) -/
  sdrDelay : Nat
deriving DecidableEq, Repr, Inhabited

/-- The parameters of the instance that `State.reset` describes: a free value. It has no body, so nothing
can be proved of it and every theorem about reset holds for every choice of the parameters (log entry 2). -/
opaque Config.chip : Config

end Sys2Proof
end

