-- ==== Sys2Proof/Machine/State.lean ====
section
/-! DEFINITION. The state of one instance: the record `Cia` of 10_state.md R20 and nothing else, the model's own
fields around it (the parameters, the pending operations, the output trace, the returned byte), the reasons a
step can stop, and the state after reset (10_state.md R68). -/

namespace Sys2Proof.Machine

/-- The register shadow `regs[0..15]`, one byte for each of the sixteen offsets (10_state.md R23). -/
structure Regs where
  pra : Byte
  prb : Byte
  ddra : Byte
  ddrb : Byte
  talo : Byte
  tahi : Byte
  tblo : Byte
  tbhi : Byte
  tod10 : Byte
  todsec : Byte
  todmin : Byte
  todhr : Byte
  sdr : Byte
  icr : Byte
  cra : Byte
  crb : Byte
deriving DecidableEq, Repr

/-- The internal state both timers have (10_state.md R40, R41). -/
structure Timer where
  /-- the live 16-bit down-counter -/
  count : Half
  /-- the 16-bit reload value -/
  latch : Half
  /-- start-up cycles still to pass before the timer counts -/
  delay : Nat
  /-- the toggle output flip-flop -/
  tog : Bool
  /-- the pulse output: true from an underflow until the start of the next PHI2 cycle -/
  pulse : Bool
deriving DecidableEq, Repr

/-- Timer B has, beside that, the input ticks it still has to lose because of the Timer B bug (10_state.md R41). -/
structure TimerB extends Timer where
  skip : Nat
deriving DecidableEq, Repr

/-- Four TOD fields, each a raw byte (10_state.md R31 to R34, R44). -/
structure TodTime where
  hr : Byte
  min : Byte
  sec : Byte
  ten : Byte
deriving DecidableEq, Repr

/-- The time-of-day clock (10_state.md R44 to R49). -/
structure Tod where
  /-- the running clock -/
  clk : TodTime
  /-- the alarm target -/
  alarm : TodTime
  /-- the frozen read snapshot -/
  snap : TodTime
  /-- the read hold is active -/
  latched : Bool
  /-- the write-buffer -/
  wbuf : TodTime
  /-- the fields of `wbuf` that are pending: `ten`, `sec`, `min`, `hr` at bits 0, 1, 2, 3 -/
  wmask : BitVec 4
  /-- the clock does not advance -/
  stopped : Bool
  /-- sub-ticks counted since the last tenth -/
  ticks : Nat
deriving DecidableEq, Repr

/-- The serial shift register (10_state.md R51 to R56). -/
structure Sdr where
  /-- the 16-bit working shift register -/
  shifter : Half
  /-- shift events since the last completion -/
  bits : Nat
  /-- a byte is queued in `regs[SDR]` for output -/
  valid : Bool
  /-- a byte is being shifted out -/
  inflight : Bool
  /-- that byte is being finished after a switch to input mode -/
  forceFinish : Bool
  /-- PHI2 cycles still to pass before a queued byte may be loaded -/
  delay : Nat
deriving DecidableEq, Repr

/-- The interrupt mask and flags (10_state.md R57, R58). -/
structure Icr where
  /-- the enable mask, bit numbers as 10_state.md R36 bits 4:0 -/
  mask : BitVec 5
  /-- bits 4:0 the latched sources, bits 6:5 zero, bit 7 IR, bit 8 the Timer B bug marker TBB -/
  flags : BitVec 9
deriving DecidableEq, Repr

/-- The state of one instance of the block: the elements of 10_state.md R23 to R64 and nothing else (R20). -/
structure Cia where
  regs : Regs
  ta : Timer
  tb : TimerB
  /-- a write-triggered restart of Timer B in this cycle (R43) -/
  tbRestart : Bool
  tod : Tod
  sdr : Sdr
  icr : Icr
  /-- false after `DISABLE` (R59) -/
  enabled : Bool
  /-- the level driven on the interrupt line, true = asserted (R60) -/
  irqOut : Bool
  /-- the bytes of the last `PortA` and `PortB` events (R61) -/
  oldPortA : Byte
  oldPortB : Byte
  /-- the levels the outside world applies to the port pins (R62) -/
  extA : Byte
  extB : Byte
  /-- the levels last applied to the CNT and SP pins (R63) -/
  cnt : Bool
  sp : Bool
  /-- the levels last driven on SP and CNT (R64) -/
  spOut : Bool
  cntOut : Bool
deriving DecidableEq, Repr

/-- The output events of 00_scope.md R12. -/
inductive OutEvent where
  | portA (v : Byte)
  | portB (v : Byte)
  | serialPin (b : Bool)
  | countPin (b : Bool)
  | irqLine (kind : IrqKind) (id : Nat) (asserted : Bool)
deriving DecidableEq, Repr

/-- The machine's state: one instance, and the model's own fields around it. -/
structure State where
  /-- all the state the spec gives the block -/
  cia : Cia
  /-- the parameters of the instance: no operation writes this field (00_scope.md R6; log entry 2) -/
  cfg : Config
  /-- the operations the environment has supplied and not yet applied, oldest first (log entry 1) -/
  script : List Word
  /-- the output trace: every event emitted, oldest first (00_scope.md R12) -/
  trace : List OutEvent
  /-- the byte the last operation returned to the bus, none where it returned none (00_scope.md R12) -/
  ret : Option Byte
deriving DecidableEq, Repr

/-- There is no fault: every one of the 58 operations is a total function on the state and raises no error
(60_exceptions.md R280; 20_memory.md R89). The type has no constructor, so no step can answer a fault: safe. -/
inductive Fault where
deriving DecidableEq, Repr

/-- Why a step has no meaning. -/
inductive Refusal where
  /-- Raised by `exec` for an operation without a meaning; no arm of this model raises it. Safe: nothing runs. -/
  | notModelled (mnemonic : String)
  /-- Raised by `step` for a reserved stimulus word, `$CA00` to `$FFFF` (30_encoding.md R105; 60_exceptions.md
  R284). Safe: the spec refuses the word, and the hardware has no such input. -/
  | reservedWord (w : Word)
deriving DecidableEq, Repr

/-- The all-zero shadow of 10_state.md R68. -/
def Regs.zero : Regs :=
  { pra := 0, prb := 0, ddra := 0, ddrb := 0, talo := 0, tahi := 0, tblo := 0, tbhi := 0,
    tod10 := 0, todsec := 0, todmin := 0, todhr := 0, sdr := 0, icr := 0, cra := 0, crb := 0 }

/-- Both timers at reset (10_state.md R68). -/
def Timer.reset : Timer := { count := 0xFFFF, latch := 0xFFFF, delay := 0, tog := false, pulse := false }

/-- All four TOD fields `$00`. -/
def TodTime.zero : TodTime := { hr := 0, min := 0, sec := 0, ten := 0 }

/-- The clock at reset: 1:00:00.0 AM, stopped (10_state.md R68). -/
def Tod.reset : Tod :=
  { clk := { hr := 0x01, min := 0, sec := 0, ten := 0 }, alarm := .zero, snap := .zero, latched := false,
    wbuf := .zero, wmask := 0, stopped := true, ticks := 0 }

/-- The serial port at reset (10_state.md R68). -/
def Sdr.reset : Sdr :=
  { shifter := 0, bits := 0, valid := false, inflight := false, forceFinish := false, delay := 0 }

/-- The interrupt register at reset (10_state.md R68). -/
def Icr.reset : Icr := { mask := 0, flags := 0 }

/-- The table of reset values, element by element (10_state.md R68). -/
def Cia.reset : Cia :=
  { regs := .zero, ta := .reset, tb := { toTimer := .reset, skip := 0 }, tbRestart := false, tod := .reset,
    sdr := .reset, icr := .reset, enabled := true, irqOut := false, oldPortA := 0xFF, oldPortB := 0xFF,
    extA := 0xFF, extB := 0xFF, cnt := true, sp := true, spOut := true, cntOut := true }

/-- A freshly constructed instance with parameters `c`: the reset values, nothing pending, nothing emitted
(45_system.md R260). -/
def State.resetWith (c : Config) : State :=
  { cia := .reset, cfg := c, script := [], trace := [], ret := none }

/-- The machine right after reset. Its parameters are the free value `Config.chip`. -/
def State.reset : State := .resetWith Config.chip

end Sys2Proof.Machine
end

