-- ==== Sys2Proof/Machine/Operands.lean ====
section
/-! DEFINITION. Operand forms and value computations: the halves of a timer word, one bit of a byte, a register
of the shadow, a TOD field, and the BCD increments (10_state.md R29 to R34; 42_tod.md R193, R194). -/

namespace Sys2Proof.Machine

/-! ## Bytes and timer words (00_scope.md R10; 10_state.md R29) -/

/-- `c[7:0]`, the byte at the lower offset of a timer's pair. -/
def lowByte (c : Half) : Byte := c.extractLsb' 0 8

/-- `c[15:8]`, the byte at the higher offset. -/
def highByte (c : Half) : Byte := c.extractLsb' 8 8

/-- `c[7:0] <- v`. -/
def withLow (c : Half) (v : Byte) : Half := highByte c ++ v

/-- `c[15:8] <- v`. -/
def withHigh (c : Half) (v : Byte) : Half := v ++ lowByte c

/-- `v[i] <- b`. -/
def putBit (v : Byte) (i : Nat) (b : Bool) : Byte :=
  if b then v ||| (1#8 <<< i) else v &&& ~~~(1#8 <<< i)

/-! ## The register shadow (00_scope.md R11) -/

/-- `regs[r]`. -/
def Regs.get (f : Regs) : Reg → Byte
  | .pra => f.pra
  | .prb => f.prb
  | .ddra => f.ddra
  | .ddrb => f.ddrb
  | .talo => f.talo
  | .tahi => f.tahi
  | .tblo => f.tblo
  | .tbhi => f.tbhi
  | .tod10 => f.tod10
  | .todsec => f.todsec
  | .todmin => f.todmin
  | .todhr => f.todhr
  | .sdr => f.sdr
  | .icr => f.icr
  | .cra => f.cra
  | .crb => f.crb

/-- `regs[r] <- v`. -/
def Regs.set (f : Regs) (r : Reg) (v : Byte) : Regs :=
  match r with
  | .pra => { f with pra := v }
  | .prb => { f with prb := v }
  | .ddra => { f with ddra := v }
  | .ddrb => { f with ddrb := v }
  | .talo => { f with talo := v }
  | .tahi => { f with tahi := v }
  | .tblo => { f with tblo := v }
  | .tbhi => { f with tbhi := v }
  | .tod10 => { f with tod10 := v }
  | .todsec => { f with todsec := v }
  | .todmin => { f with todmin := v }
  | .todhr => { f with todhr := v }
  | .sdr => { f with sdr := v }
  | .icr => { f with icr := v }
  | .cra => { f with cra := v }
  | .crb => { f with crb := v }

/-! ## TOD fields (42_tod.md, opening; 10_state.md R47) -/

/-- One of the four TOD fields. -/
inductive TodField where
  | ten
  | sec
  | min
  | hr
deriving DecidableEq, Repr

/-- The register of a field. -/
def TodField.reg : TodField → Reg
  | .ten => .tod10
  | .sec => .todsec
  | .min => .todmin
  | .hr => .todhr

/-- The bit of a field in `tod.wmask` (10_state.md R47). -/
def TodField.bit : TodField → Nat
  | .ten => 0
  | .sec => 1
  | .min => 2
  | .hr => 3

/-- The mask with only the field's bit. -/
def TodField.maskBit (f : TodField) : BitVec 4 := 1#4 <<< f.bit

/-- `t.f`. -/
def TodTime.get (t : TodTime) : TodField → Byte
  | .ten => t.ten
  | .sec => t.sec
  | .min => t.min
  | .hr => t.hr

/-- `t.f <- v`. -/
def TodTime.set (t : TodTime) (f : TodField) (v : Byte) : TodTime :=
  match f with
  | .ten => { t with ten := v }
  | .sec => { t with sec := v }
  | .min => { t with min := v }
  | .hr => { t with hr := v }

/-- `t` with the fields that `mask` marks taken from `buf`: the commit of the write-buffer (42_tod.md R210). -/
def TodTime.commit (t buf : TodTime) (mask : BitVec 4) : TodTime :=
  { hr := if mask.getLsbD TodField.hr.bit then buf.hr else t.hr
    min := if mask.getLsbD TodField.min.bit then buf.min else t.min
    sec := if mask.getLsbD TodField.sec.bit then buf.sec else t.sec
    ten := if mask.getLsbD TodField.ten.bit then buf.ten else t.ten }

/-! ## BCD increments, total on all 256 bytes (42_tod.md R193, R194) -/

/-- `BcdInc(v, max)`: the new value and the carry. -/
def bcdInc (v max : Byte) : Byte × Bool :=
  if v = max then (0, true)
  else if v.extractLsb' 0 4 = 9#4 then ((v &&& 0xF0) + 0x10, false)
  else (v + 1, false)

/-- `HourInc(h)`: the PM flag is inverted at the step from `$11` to `$12`. -/
def hourInc (h : Byte) : Byte :=
  let pm := h &&& 0x80
  let x := h &&& 0x7F
  if x = 0x12 then pm ||| 0x01
  else if x = 0x11 then (pm ^^^ 0x80) ||| 0x12
  else if x.extractLsb' 0 4 = 9#4 then pm ||| (((x &&& 0x70) + 0x10) &&& 0x7F)
  else pm ||| ((x + 1) &&& 0x7F)

/-- `TodIncrement()`: one tenth of a second, carried through the fields. -/
def TodTime.increment (t : TodTime) : TodTime :=
  let (ten, c) := bcdInc t.ten 0x09
  let (sec, c) := if c then bcdInc t.sec 0x59 else (t.sec, false)
  let (min, c) := if c then bcdInc t.min 0x59 else (t.min, false)
  { hr := if c then hourInc t.hr else t.hr, min := min, sec := sec, ten := ten }

end Sys2Proof.Machine
end

