-- ==== Sys2Proof/Machine/Ops.lean ====
section
/-! DEFINITION. The named operations over the state: the shadow registers, the output trace, the returned byte,
the control-register views, the timers' outputs, the ports' procedures, and the two halves of the block's part in
a trap: asserting the interrupt line and releasing it. -/

namespace Sys2Proof.Machine

/-! ## Registers, trace, returned byte (00_scope.md R11, R12) -/

/-- `regs[r]`. -/
def State.reg (s : State) (r : Reg) : Byte := s.cia.regs.get r

/-- `regs[r] <- v`. -/
def State.setReg (s : State) (r : Reg) (v : Byte) : State := { s with cia.regs := s.cia.regs.set r v }

/-- `emit e`: append one event to the output trace. -/
def State.emit (s : State) (e : OutEvent) : State := { s with trace := s.trace ++ [e] }

/-- `return v`: the operation hands `v` back to the bus. -/
def State.answer (s : State) (v : Byte) : State := { s with ret := some v }

/-- The operation hands no byte back. -/
def State.silent (s : State) : State := { s with ret := none }

/-! ## Views of the control registers (10_state.md R38, R39, R42, R50) -/

/-- One of the two timers. -/
inductive TimerId where
  | a
  | b
deriving DecidableEq, Repr

/-- A timer's control register: `CRA` or `CRB`. -/
def TimerId.controlReg : TimerId → Reg
  | .a => .cra
  | .b => .crb

/-- A timer's control byte. -/
def State.control (s : State) (t : TimerId) : Byte := s.reg t.controlReg

/-- START, bit 0: the timer is RUNNING. -/
def State.started (s : State) (t : TimerId) : Bool := (s.control t).getLsbD 0

/-- PBON, bit 1: the timer's output replaces its port B pin. -/
def State.pbOn (s : State) (t : TimerId) : Bool := (s.control t).getLsbD 1

/-- OUTMODE, bit 2: toggle. -/
def State.toggleMode (s : State) (t : TimerId) : Bool := (s.control t).getLsbD 2

/-- RUNMODE, bit 3: one-shot. -/
def State.oneShot (s : State) (t : TimerId) : Bool := (s.control t).getLsbD 3

/-- `CRA[5]`: Timer A counts rising edges of CNT. -/
def State.countsCntA (s : State) : Bool := (s.reg .cra).getLsbD 5

/-- `CRB[6:5]`: Timer B's input mode. -/
def State.inmodeB (s : State) : BitVec 2 := (s.reg .crb).extractLsb' 5 2

/-- SPMODE, `CRA[6]`: the serial port is output. -/
def State.serialOut (s : State) : Bool := (s.reg .cra).getLsbD 6

/-- `TodDiv`: 5 if `CRA[7]` is 1, else 6 (10_state.md R50). -/
def State.todDiv (s : State) : Nat := if (s.reg .cra).getLsbD 7 then 5 else 6

/-- ALARM, `CRB[7]`: a TOD store writes the alarm. -/
def State.alarmMode (s : State) : Bool := (s.reg .crb).getLsbD 7

/-! ## The timers' fields -/

/-- `START_DELAY(MODEL)` (00_scope.md R6). -/
def startDelay : Model → Nat
  | .old6526 => 1
  | .new6526A => 0

/-- The fields both timers have. -/
def State.timer (s : State) : TimerId → Timer
  | .a => s.cia.ta
  | .b => s.cia.tb.toTimer

/-- Replace those fields. -/
def State.setTimer (s : State) (t : TimerId) (x : Timer) : State :=
  match t with
  | .a => { s with cia.ta := x }
  | .b => { s with cia.tb.toTimer := x }

/-! ## Ports (40_ports.md R132, R135, R136) -/

/-- `TAout()` and `TBout()`: the toggle flip-flop or the pulse, chosen by OUTMODE. -/
def State.timerOut (s : State) (t : TimerId) : Bool :=
  if s.toggleMode t then (s.timer t).tog else (s.timer t).pulse

/-- Bits 6 and 7 of a port B byte replaced by the timer outputs where PBON is set. -/
def State.overlayTimers (s : State) (v : Byte) : Byte :=
  let v := if s.pbOn .a then putBit v 6 (s.timerOut .a) else v
  if s.pbOn .b then putBit v 7 (s.timerOut .b) else v

/-- `PAout()`: the byte presented on port A. -/
def State.portAOut (s : State) : Byte := s.reg .pra ||| ~~~(s.reg .ddra)

/-- `PBout()`: the byte presented on port B. -/
def State.portBOut (s : State) : Byte := s.overlayTimers (s.reg .prb ||| ~~~(s.reg .ddrb))

/-- `UpdatePortA()`: emit the presented byte if it changed. -/
def updatePortA (s : State) : State :=
  if s.portAOut = s.cia.oldPortA then s
  else { s.emit (.portA s.portAOut) with cia.oldPortA := s.portAOut }

/-- `UpdatePortB()`: emit the presented byte if it changed. -/
def updatePortB (s : State) : State :=
  if s.portBOut = s.cia.oldPortB then s
  else { s.emit (.portB s.portBOut) with cia.oldPortB := s.portBOut }

/-- `ReadA()`: output bits from the data register, input bits from the pins. -/
def State.readA (s : State) : Byte :=
  (s.reg .pra &&& s.reg .ddra) ||| (s.cia.extA &&& ~~~(s.reg .ddra))

/-- `ReadB()`: as `ReadA()`, with the timer outputs on the pins they take. -/
def State.readB (s : State) : Byte :=
  s.overlayTimers ((s.reg .prb &&& s.reg .ddrb) ||| (s.cia.extB &&& ~~~(s.reg .ddrb)))

/-! ## The serial pins (43_sdr.md R221) -/

/-- `EmitSp(b)`. -/
def emitSp (s : State) (b : Bool) : State :=
  if b = s.cia.spOut then s else { s.emit (.serialPin b) with cia.spOut := b }

/-- `EmitCnt(b)`. -/
def emitCnt (s : State) (b : Bool) : State :=
  if b = s.cia.cntOut then s else { s.emit (.countPin b) with cia.cntOut := b }

/-! ## The interrupt line: the block's whole part in a trap (60_exceptions.md R286, R288, R289) -/

/-- `icr.flags[4:0]`, the pending sources. -/
def Icr.sources (c : Icr) : BitVec 5 := c.flags.extractLsb' 0 5

/-- `icr.flags[7]`, IR. -/
def Icr.ir (c : Icr) : Bool := c.flags.getLsbD 7

/-- `icr.flags[7:0]`, the byte the bus sees (10_state.md R37). -/
def Icr.byte (c : Icr) : Byte := c.flags.extractLsb' 0 8

/-- `emit IrqLine(IRQ_LINE, CTX_ID, b)`. -/
def State.emitIrq (s : State) (b : Bool) : State := s.emit (.irqLine s.cfg.irqLine s.cfg.ctxId b)

/-- Trap entry, as far as it is the block's: set IR, drive the line, say so (44_icr.md R242). -/
def assertIrq (s : State) : State :=
  { s.emitIrq true with cia.icr.flags := s.cia.icr.flags ||| 0x080#9, cia.irqOut := true }

/-- The handler's acknowledge, as far as it is the block's: clear all nine flags and release the line if this
chip raised it (44_icr.md R244). -/
def releaseIrq (s : State) : State :=
  if s.cia.irqOut then { s.emitIrq false with cia.icr.flags := 0, cia.irqOut := false }
  else { s with cia.icr.flags := 0 }

end Sys2Proof.Machine
end

