-- ==== Sys2Proof/Machine/Flags.lean ====
section
/-! DEFINITION. Every computation of an interrupt flag: the five sources, `Evaluate()`, `RaiseSource(m)`, the
Timer B bug marker, and the mask command (44_icr.md R240 to R243; 10_state.md R36, R58). -/

namespace Sys2Proof.Machine

/-- The five interrupt sources (60_exceptions.md R285). -/
inductive Source where
  | ta
  | tb
  | tod
  | sdr
  | flg
deriving DecidableEq, Repr

/-- The argument of `RaiseSource`: `$01`, `$02`, `$04`, `$08`, `$10`. -/
def Source.bit : Source → BitVec 9
  | .ta => 0x001
  | .tb => 0x002
  | .tod => 0x004
  | .sdr => 0x008
  | .flg => 0x010

/-- Some source is enabled and pending (44_icr.md R240). -/
def Icr.wantsIrq (c : Icr) : Bool := c.sources &&& c.mask != 0

/-- `Evaluate()`: assert at most once per read of the register (44_icr.md R242). -/
def evaluateIrq (s : State) : State :=
  if s.cia.icr.wantsIrq && !s.cia.icr.ir then assertIrq s else s

/-- `RaiseSource(m)`: the flag is latched whatever the mask says (44_icr.md R241). -/
def raiseSource (src : Source) (s : State) : State :=
  evaluateIrq { s with cia.icr.flags := s.cia.icr.flags ||| src.bit }

/-- `icr.flags[8] <- 1`: the Timer B bug occurred (41_timers.md R146). -/
def markTbBug (s : State) : State := { s with cia.icr.flags := s.cia.icr.flags ||| 0x100#9 }

/-- The mask after the command byte `v`: bit 7 sets or clears the bits that are 1 in `v[4:0]` (10_state.md R36). -/
def Icr.maskAfter (c : Icr) (v : Byte) : BitVec 5 :=
  if v.getLsbD 7 then c.mask ||| v.extractLsb' 0 5 else c.mask &&& ~~~(v.extractLsb' 0 5)

end Sys2Proof.Machine
end

