-- ==== Sys2Proof/Machine/Ports.lean ====
section
/-! DEFINITION. The meanings of the port operations (40_ports.md R120 to R131, R133, R134). -/

namespace Sys2Proof.Machine

/-- What an operation answers: a next state always, by 60_exceptions.md R280. -/
abbrev Answer := Host.Outcome State Fault Refusal

/-- A load or peek of a storage register, or of any register whose view is `v`, that changes no state of the
block: the byte is returned and that is all (10_state.md R23; 20_memory.md R87). -/
def readOnly (v : Byte) (s : State) : Answer := .next (s.answer v)

/-- `LD` of a view register: the returned byte is also kept in the shadow (10_state.md R23). -/
def State.loadView (s : State) (r : Reg) (v : Byte) : State := (s.setReg r v).answer v

/-! ## Port A -/

/-- `LD.PRA` (R121). -/
def execLdPra (s : State) : Answer := readOnly s.readA s

/-- `PK.PRA` (R122). -/
def execPkPra (s : State) : Answer := readOnly s.readA s

/-- `ST.PRA v` (R120). -/
def execStPra (v : Byte) (s : State) : Answer := .next (updatePortA (s.silent.setReg .pra v))

/-- `LD.DDRA` (R127). -/
def execLdDdra (s : State) : Answer := readOnly (s.reg .ddra) s

/-- `PK.DDRA` (R128). -/
def execPkDdra (s : State) : Answer := readOnly (s.reg .ddra) s

/-- `ST.DDRA v` (R126). -/
def execStDdra (v : Byte) (s : State) : Answer := .next (updatePortA (s.silent.setReg .ddra v))

/-! ## Port B -/

/-- `LD.PRB` (R124). -/
def execLdPrb (s : State) : Answer := readOnly s.readB s

/-- `PK.PRB` (R125). -/
def execPkPrb (s : State) : Answer := readOnly s.readB s

/-- `ST.PRB v` (R123). -/
def execStPrb (v : Byte) (s : State) : Answer := .next (updatePortB (s.silent.setReg .prb v))

/-- `LD.DDRB` (R130). -/
def execLdDdrb (s : State) : Answer := readOnly (s.reg .ddrb) s

/-- `PK.DDRB` (R131). -/
def execPkDdrb (s : State) : Answer := readOnly (s.reg .ddrb) s

/-- `ST.DDRB v` (R129). -/
def execStDdrb (v : Byte) (s : State) : Answer := .next (updatePortB (s.silent.setReg .ddrb v))

/-! ## Pin inputs, recorded even when the block is disabled -/

/-- `PINA v` (R133). -/
def execPina (v : Byte) (s : State) : Answer := .next { s.silent with cia.extA := v }

/-- `PINB v` (R134). -/
def execPinb (v : Byte) (s : State) : Answer := .next { s.silent with cia.extB := v }

end Sys2Proof.Machine
end

