-- ==== Sys2Proof/Machine/Interrupt.lean ====
section
/-! DEFINITION. The meanings of the interrupt control register's operations and of `FLAG`
(44_icr.md R243 to R246). -/

namespace Sys2Proof.Machine

/-- `ST.ICR v` (R243): the mask command, then a flag already pending may assert the line. -/
def execStIcr (v : Byte) (s : State) : Answer :=
  .next (evaluateIrq { s.silent.setReg .icr v with cia.icr.mask := s.cia.icr.maskAfter v })

/-- `LD.ICR` (R244): the acknowledge. -/
def execLdIcr (s : State) : Answer := .next ((releaseIrq s).loadView .icr s.cia.icr.byte)

/-- `PK.ICR` (R245). -/
def execPkIcr (s : State) : Answer := readOnly s.cia.icr.byte s

/-- `FLAG` (R246): one active edge on the FLAG pin, lost when the block is disabled. -/
def execFlag (s : State) : Answer :=
  if s.cia.enabled then .next (raiseSource .flg s.silent) else .next s.silent

end Sys2Proof.Machine
end

