-- ==== Sys2Proof/Machine/System.lean ====
section
/-! DEFINITION. Construction, `RESET` and `DISABLE` (45_system.md R260 to R262). -/

namespace Sys2Proof.Machine

/-! ## Construction (R260; 00_scope.md R8) -/

/-- The one failure of construction (60_exceptions.md R282). -/
inductive ConstructionError where
  /-- a model tag that is neither `OLD_6526` nor `NEW_6526A` -/
  | invalidModelTag (tag : String)
deriving DecidableEq, Repr

/-- The tags of the two revisions; any other is refused, never defaulted (00_scope.md R8). -/
def modelOfTag (tag : String) : Except ConstructionError Model :=
  if tag = "OLD_6526" then .ok .old6526
  else if tag = "NEW_6526A" then .ok .new6526A
  else .error (.invalidModelTag tag)

/-- Construction: the reset state with the given parameters, nothing emitted, or the failure. -/
def construct (tag : String) (irqLine : IrqKind) (ctxId tbBugLoss sdrDelay : Nat) :
    Except ConstructionError State :=
  match modelOfTag tag with
  | .ok m => .ok (.resetWith { model := m, irqLine, ctxId, tbBugLoss, sdrDelay })
  | .error e => .error e

/-! ## RESET (R261) -/

/-- Emit `e` where the output `changes`. -/
def emitIf (changes : Bool) (e : OutEvent) (s : State) : State := if changes then s.emit e else s

/-- Every output the reset changes, announced in the fixed order of R261. -/
def announceReset (s : State) : State :=
  emitIf (!s.cia.cntOut) (.countPin true)
    (emitIf (!s.cia.spOut) (.serialPin true)
      (emitIf (s.cia.oldPortB != 0xFF) (.portB 0xFF)
        (emitIf (s.cia.oldPortA != 0xFF) (.portA 0xFF)
          (emitIf s.cia.irqOut (.irqLine s.cfg.irqLine s.cfg.ctxId false) s))))

/-- `RESET` (R261): works in every state, and leaves the parameters alone. -/
def execReset (s : State) : Answer := .next { announceReset s.silent with cia := .reset }

/-! ## DISABLE (R262) -/

/-- `DISABLE` (R262): from now on no time passes for the block. -/
def execDisable (s : State) : Answer := .next { s.silent with cia.enabled := false }

end Sys2Proof.Machine
end

