-- ==== Sys2Proof/Machine/Serial.lean ====
section
/-! DEFINITION. The serial shift register: the procedures the timers call and the meanings of its operations
(43_sdr.md R222 to R229). -/

namespace Sys2Proof.Machine

/-! ## Output path (R222) -/

/-- `LoadShifter()`: the queued byte goes into the shifter. -/
def loadShifter (s : State) : State :=
  { s with
    cia.sdr.shifter := (s.reg .sdr).setWidth 16, cia.sdr.valid := false,
    cia.sdr.inflight := true, cia.sdr.bits := 0 }

/-- A byte is queued and its deferral has run out. -/
def State.byteReady (s : State) : Bool := s.cia.sdr.valid && s.cia.sdr.delay == 0

/-- "SDR complete" in output mode: the flag, then no reload if the byte was force-finished, else the next byte. -/
def completeOutput (s : State) : State :=
  let s := raiseSource .sdr { s with cia.sdr.bits := 0, cia.sdr.inflight := false }
  if s.cia.sdr.forceFinish then
    { s with cia.sdr.forceFinish := false, cia.sdr.valid := false, cia.sdr.delay := 0 }
  else if s.byteReady then loadShifter s
  else s

/-- The pins at one shift event: CNT falls, the bit just shifted out of the low byte appears, CNT rises. -/
def drivePins (s : State) (b : Bool) : State := emitCnt (emitSp (emitCnt s false) b) true

/-- Count one shift event, and complete the byte at the eighth. -/
def countShiftOut (s : State) : State :=
  if s.cia.sdr.bits + 1 = 8 then completeOutput s
  else { s with cia.sdr.bits := s.cia.sdr.bits + 1 }

/-- One shift event of the byte in flight. -/
def shiftOut (s : State) : State :=
  let sh := s.cia.sdr.shifter <<< 1
  countShiftOut (drivePins { s with cia.sdr.shifter := sh } (sh.getLsbD 8))

/-- `SdrClock()`, called by every Timer A underflow. -/
def sdrClock (s : State) : State :=
  if !s.serialOut && !s.cia.sdr.forceFinish then s
  else if s.cia.sdr.inflight then shiftOut s
  else if s.byteReady then shiftOut (loadShifter s)
  else s

/-! ## Input path (R223) -/

/-- The port takes serial input: input mode and no byte being force-finished. -/
def State.serialIn (s : State) : Bool := !s.serialOut && !s.cia.sdr.forceFinish

/-- `SdrShiftIn()`: one rising edge of CNT in input mode. -/
def sdrShiftIn (s : State) : State :=
  let sh := (s.cia.sdr.shifter <<< 1) ||| (BitVec.ofBool s.cia.sp).setWidth 16
  let n := s.cia.sdr.bits + 1
  if n = 8 then
    raiseSource .sdr ({ s with cia.sdr.shifter := sh, cia.sdr.bits := 0 }.setReg .sdr (lowByte sh))
  else { s with cia.sdr.shifter := sh, cia.sdr.bits := n }

/-! ## Mode change (R224) -/

/-- `SdrModeChange(o, n)`, called by `ST.CRA` with the old and the new SPMODE (R224). Going on with a force-finished byte
keeps `sdr.valid`, as the pseudocode has it; so a byte stored to `SDR` meanwhile, over one already queued, is sent
after all, against corner case (c) of R225 (DEDUCED, unsafe: log entry 15). -/
def sdrModeChange (o n : Bool) (s : State) : State :=
  match o, n with
  | true, false =>
    if s.cia.sdr.inflight then { s with cia.sdr.forceFinish := true }
    else { s with cia.sdr.valid := false, cia.sdr.bits := 0, cia.sdr.delay := 0 }
  | false, true =>
    if s.cia.sdr.forceFinish then { s with cia.sdr.forceFinish := false }
    else
      { s with
        cia.sdr.shifter := 0, cia.sdr.bits := 0, cia.sdr.valid := false, cia.sdr.inflight := false,
        cia.sdr.delay := 0 }
  | true, true => s
  | false, false => s

/-! ## Operations -/

/-- `ST.SDR v` (R225's pseudocode): in output mode the byte is queued, deferred if one is in flight; in input mode, under
force-finish too, only the shadow is written (of corner case (c) see log entry 15). -/
def execStSdr (v : Byte) (s : State) : Answer :=
  let s := s.silent.setReg .sdr v
  if s.serialOut then
    .next { s with
      cia.sdr.valid := true, cia.sdr.delay := if s.cia.sdr.inflight then s.cfg.sdrDelay else 0 }
  else .next s

/-- `LD.SDR` (R226's pseudocode; of its summary for output mode see log entry 16). -/
def execLdSdr (s : State) : Answer := readOnly (s.reg .sdr) s

/-- `PK.SDR` (R227). -/
def execPkSdr (s : State) : Answer := readOnly (s.reg .sdr) s

/-- `SP b` (R228): the level is recorded, even when the block is disabled. -/
def execSp (level : Bool) (s : State) : Answer := .next { s.silent with cia.sp := level }

/-- `SETSDR v` (R229): a whole byte from the host, in input mode only. -/
def execSetsdr (v : Byte) (s : State) : Answer :=
  let s := s.silent
  if s.cia.enabled && s.serialIn then
    .next (raiseSource .sdr { s.setReg .sdr v with cia.sdr.bits := 0 })
  else .next s

end Sys2Proof.Machine
end

