-- ==== Sys2Proof/Machine/Timers.lean ====
section
/-! DEFINITION. The two timers: counting, underflow, latch and control stores, and the events `PHI2` and `CNT`
(41_timers.md R143 to R171). -/

namespace Sys2Proof.Machine

/-! ## Underflow (R144, R145) -/

/-- What both timers do at an underflow: reload, toggle, pulse. -/
def Timer.reload (x : Timer) : Timer := { x with count := x.latch, tog := !x.tog, pulse := true }

/-- START cleared: the one-shot transition to STOPPED, visible in the register file. -/
def stopTimer (t : TimerId) (s : State) : State := s.setReg t.controlReg (putBit (s.control t) 0 false)

/-- Timer A underflows while Timer B was restarted in this cycle: `TB_BUG_LOSS` ticks to lose, and the marker
(R146). -/
def tbBugCheck (s : State) : State :=
  if s.cia.tbRestart then
    markTbBug { s with cia.tb.skip := s.cia.tb.skip + s.cfg.tbBugLoss, cia.tbRestart := false }
  else s

/-- The one-shot stop of Timer A (R144). -/
def oneShotStopA (s : State) : State :=
  if s.oneShot .a then { stopTimer .a s with cia.ta.delay := 0 } else s

/-- The one-shot stop of Timer B (R145). As in R145's pseudocode `tbRestart` stays as it is, so `tbBugCheck` may still
charge the stopped timer, against a clause of 10_state.md R65 (g) (DEDUCED, unsafe: log entry 5). -/
def oneShotStopB (s : State) : State :=
  if s.oneShot .b then { stopTimer .b s with cia.tb.delay := 0, cia.tb.skip := 0 } else s

/-- `UnderflowA()`: reload, stop if one-shot, output, TA flag, Timer B bug, serial bit clock (R144). -/
def underflowA (s : State) : State :=
  sdrClock (tbBugCheck (raiseSource .ta (oneShotStopA (s.setTimer .a s.cia.ta.reload))))

/-- `UnderflowB()` (R145). -/
def underflowB (s : State) : State :=
  raiseSource .tb (oneShotStopB (s.setTimer .b s.cia.tb.toTimer.reload))

/-! ## Counting (R143) -/

/-- The count after one counted tick: decremented unless it is 0, so it never wraps. -/
def countDown (c : Half) : Half := if c = 0 then 0 else c - 1

/-- `Count(A)`: the state, and whether Timer A underflowed on this tick. -/
def countA (s : State) : State × Bool :=
  let c := countDown s.cia.ta.count
  let s := { s with cia.ta.count := c }
  if c = 0 then (underflowA s, true) else (s, false)

/-- `Count(B)`: a tick lost to the Timer B bug, or one that counts. -/
def countB (s : State) : State :=
  if 0 < s.cia.tb.skip then { s with cia.tb.skip := s.cia.tb.skip - 1 }
  else
    let c := countDown s.cia.tb.count
    let s := { s with cia.tb.count := c }
    if c = 0 then underflowB s else s

/-! ## Latch and count registers (R147, R150 to R161) -/

/-- `LatchWritten(T)`: a stopped timer takes the whole latch into its count. -/
def latchWritten (t : TimerId) (s : State) : State :=
  if s.started t then s else s.setTimer t { s.timer t with count := (s.timer t).latch }

/-- A store to the register `r` that changes the latch of `t` to `latch`. -/
def storeLatch (t : TimerId) (r : Reg) (v : Byte) (latch : Half) (s : State) : Answer :=
  let s := s.silent.setReg r v
  .next (latchWritten t (s.setTimer t { s.timer t with latch := latch }))

/-- `ST.TALO v` (R150). -/
def execStTalo (v : Byte) (s : State) : Answer := storeLatch .a .talo v (withLow s.cia.ta.latch v) s

/-- `LD.TALO` (R151). -/
def execLdTalo (s : State) : Answer := .next (s.loadView .talo (lowByte s.cia.ta.count))

/-- `PK.TALO` (R152). -/
def execPkTalo (s : State) : Answer := readOnly (lowByte s.cia.ta.count) s

/-- `ST.TAHI v` (R153). -/
def execStTahi (v : Byte) (s : State) : Answer := storeLatch .a .tahi v (withHigh s.cia.ta.latch v) s

/-- `LD.TAHI` (R154). -/
def execLdTahi (s : State) : Answer := .next (s.loadView .tahi (highByte s.cia.ta.count))

/-- `PK.TAHI` (R155). -/
def execPkTahi (s : State) : Answer := readOnly (highByte s.cia.ta.count) s

/-- `ST.TBLO v` (R156). -/
def execStTblo (v : Byte) (s : State) : Answer := storeLatch .b .tblo v (withLow s.cia.tb.latch v) s

/-- `LD.TBLO` (R157). -/
def execLdTblo (s : State) : Answer := .next (s.loadView .tblo (lowByte s.cia.tb.count))

/-- `PK.TBLO` (R158). -/
def execPkTblo (s : State) : Answer := readOnly (lowByte s.cia.tb.count) s

/-- `ST.TBHI v` (R159). -/
def execStTbhi (v : Byte) (s : State) : Answer := storeLatch .b .tbhi v (withHigh s.cia.tb.latch v) s

/-- `LD.TBHI` (R160). -/
def execLdTbhi (s : State) : Answer := .next (s.loadView .tbhi (highByte s.cia.tb.count))

/-- `PK.TBHI` (R161). -/
def execPkTbhi (s : State) : Answer := readOnly (highByte s.cia.tb.count) s

/-! ## Control registers (R162 to R167) -/

/-- The stored control byte: LOAD is a strobe and is never stored. -/
def storedControl (v : Byte) : Byte := v &&& 0xEF

/-- FORCE_LOAD: `v[4]` copies the latch to the count in this same operation. -/
def forceLoad (t : TimerId) (v : Byte) (s : State) : State :=
  if v.getLsbD 4 then s.setTimer t { s.timer t with count := (s.timer t).latch } else s

/-- The start-up delay after a control store: armed from STOPPED to RUNNING, cleared by START = 0, else kept
(R142). -/
def delayAfter (m : Model) (old v : Byte) (delay : Nat) : Nat :=
  if !v.getLsbD 0 then 0 else if !old.getLsbD 0 then startDelay m else delay

/-- The part of a control store both timers share: the stored byte, FORCE_LOAD, the start-up delay. -/
def controlStored (t : TimerId) (v : Byte) (s : State) : State :=
  let old := s.control t
  let s := forceLoad t v (s.setReg t.controlReg (storedControl v))
  s.setTimer t { s.timer t with delay := delayAfter s.cfg.model old v (s.timer t).delay }

/-- `ST.CRA v` (R162). -/
def execStCra (v : Byte) (s : State) : Answer :=
  .next (updatePortB
    (sdrModeChange ((s.reg .cra).getLsbD 6) (v.getLsbD 6) (controlStored .a v s.silent)))

/-- `LD.CRA` (R163). -/
def execLdCra (s : State) : Answer := readOnly (s.reg .cra) s

/-- `PK.CRA` (R164). -/
def execPkCra (s : State) : Answer := readOnly (s.reg .cra) s

/-- A `CRB` store is a write-triggered restart of Timer B: START = 1 after it, and either START was 0 or LOAD
is 1 (R146, R165). -/
def isRestart (old v : Byte) : Bool := v.getLsbD 0 && (!old.getLsbD 0 || v.getLsbD 4)

/-- What a `CRB` store does to the Timer B bug's state (R165). -/
def restartMarked (old v : Byte) (s : State) : State :=
  if !v.getLsbD 0 then { s with cia.tb.skip := 0, cia.tbRestart := false }
  else if isRestart old v then { s with cia.tbRestart := true }
  else s

/-- `ST.CRB v` (R165). -/
def execStCrb (v : Byte) (s : State) : Answer :=
  .next (updatePortB (restartMarked (s.reg .crb) v (controlStored .b v s.silent)))

/-- `LD.CRB` (R166). -/
def execLdCrb (s : State) : Answer := readOnly (s.reg .crb) s

/-- `PK.CRB` (R167). -/
def execPkCrb (s : State) : Answer := readOnly (s.reg .crb) s

/-! ## The system clock (R170) -/

/-- The pulses end and the deferred SDR store comes one cycle nearer. -/
def phi2Begin (s : State) : State :=
  { s with
    cia.ta.pulse := false, cia.tb.pulse := false, cia.sdr.delay := s.cia.sdr.delay - 1 }

/-- Timer A's part of a cycle: the state, and whether Timer A underflowed. -/
def phi2TimerA (s : State) : State × Bool :=
  if s.started .a then
    if 0 < s.cia.ta.delay then ({ s with cia.ta.delay := s.cia.ta.delay - 1 }, false)
    else if s.countsCntA then (s, false)
    else countA s
  else (s, false)

/-- A `PHI2` is a tick of Timer B's source, `uA` saying whether Timer A underflowed in it (R141, R170). -/
def State.phi2TicksB (s : State) (uA : Bool) : Bool :=
  s.inmodeB == 0#2 || (s.inmodeB == 2#2 && uA) || (s.inmodeB == 3#2 && uA && s.cia.cnt)

/-- Timer B's part of a cycle. -/
def phi2TimerB (uA : Bool) (s : State) : State :=
  if s.started .b then
    if 0 < s.cia.tb.delay then { s with cia.tb.delay := s.cia.tb.delay - 1 }
    else if s.phi2TicksB uA then countB s
    else s
  else s

/-- One enabled system clock cycle: Timer A before Timer B, then the cycle is over. -/
def phi2Cycle (s : State) : State :=
  let a := phi2TimerA (phi2Begin s)
  updatePortB { phi2TimerB a.2 a.1 with cia.tbRestart := false }

/-- `PHI2` (R170). -/
def execPhi2 (s : State) : Answer :=
  if s.cia.enabled then .next (phi2Cycle s.silent) else .next s.silent

/-! ## The count pin (R171) -/

/-- Timer A's part of a rising edge: the state, and whether Timer A underflowed. -/
def cntTimerA (s : State) : State × Bool :=
  if s.started .a && s.countsCntA && s.cia.ta.delay == 0 then countA s else (s, false)

/-- A rising edge is a tick of Timer B's source: CNT is high now, so mode `11` needs only the underflow. -/
def State.cntTicksB (s : State) (uA : Bool) : Bool :=
  s.inmodeB == 1#2 || ((s.inmodeB == 2#2 || s.inmodeB == 3#2) && uA)

/-- Timer B's part of a rising edge. -/
def cntTimerB (uA : Bool) (s : State) : State :=
  if s.started .b && s.cia.tb.delay == 0 && s.cntTicksB uA then countB s else s

/-- A rising edge of CNT on an enabled block: both timers, then the serial input. -/
def cntRising (s : State) : State :=
  let a := cntTimerA s
  let s := cntTimerB a.2 a.1
  updatePortB (if s.serialIn then sdrShiftIn s else s)

/-- `CNT b` (R171): the level is recorded even when the block is disabled. -/
def execCnt (level : Bool) (s : State) : Answer :=
  let rising := !s.cia.cnt && level
  let s := { s.silent with cia.cnt := level }
  if s.cia.enabled && rising then .next (cntRising s) else .next s

end Sys2Proof.Machine
end

