-- ==== Sys2Proof/Machine/Tod.lean ====
section
/-! DEFINITION. The time-of-day clock: stores, reads, the hold, and the tick (42_tod.md R191 to R210). -/

namespace Sys2Proof.Machine

/-! ## Procedures (R191, R192) -/

/-- The stop and start a clock store makes: hours stop the clock and clear the sub-tick counter, tenths start
it (R191). -/
def clockStoreGate (f : TodField) (d : Tod) : Tod :=
  match f with
  | .hr => { d with stopped := true, ticks := 0 }
  | .ten => { d with stopped := false }
  | .sec | .min => d

/-- Where a clock store puts its byte: the write-buffer during a hold, else the clock, and a direct store
cancels a buffered one for its field (R191). -/
def clockStorePlace (f : TodField) (v : Byte) (d : Tod) : Tod :=
  if d.latched then { d with wbuf := d.wbuf.set f v, wmask := d.wmask ||| f.maskBit }
  else { d with clk := d.clk.set f v, wmask := d.wmask &&& ~~~f.maskBit }

/-- `TodStore(f, v)`: the alarm, or the clock with its gate and place. The byte is stored raw. -/
def todStore (f : TodField) (v : Byte) (s : State) : State :=
  let s := s.silent.setReg f.reg v
  if s.alarmMode then { s with cia.tod.alarm := s.cia.tod.alarm.set f v }
  else { s with cia.tod := clockStorePlace f v (clockStoreGate f s.cia.tod) }

/-- `TodRead(f)`: the snapshot during a hold, else the clock. -/
def State.todRead (s : State) (f : TodField) : Byte :=
  if s.cia.tod.latched then s.cia.tod.snap.get f else s.cia.tod.clk.get f

/-! ## Tenths -/

/-- `ST.TOD10 v` (R195). -/
def execStTod10 (v : Byte) (s : State) : Answer := .next (todStore .ten v s)

/-- `LD.TOD10` (R196): the read that releases the hold. -/
def execLdTod10 (s : State) : Answer :=
  .next ({ s with cia.tod.latched := false }.loadView .tod10 (s.todRead .ten))

/-- `PK.TOD10` (R197). -/
def execPkTod10 (s : State) : Answer := readOnly (s.todRead .ten) s

/-! ## Seconds -/

/-- `ST.TODSEC v` (R198). -/
def execStTodsec (v : Byte) (s : State) : Answer := .next (todStore .sec v s)

/-- `LD.TODSEC` (R199). -/
def execLdTodsec (s : State) : Answer := .next (s.loadView .todsec (s.todRead .sec))

/-- `PK.TODSEC` (R200). -/
def execPkTodsec (s : State) : Answer := readOnly (s.todRead .sec) s

/-! ## Minutes -/

/-- `ST.TODMIN v` (R201). -/
def execStTodmin (v : Byte) (s : State) : Answer := .next (todStore .min v s)

/-- `LD.TODMIN` (R202). -/
def execLdTodmin (s : State) : Answer := .next (s.loadView .todmin (s.todRead .min))

/-- `PK.TODMIN` (R203). -/
def execPkTodmin (s : State) : Answer := readOnly (s.todRead .min) s

/-! ## Hours -/

/-- `ST.TODHR v` (R204). -/
def execStTodhr (v : Byte) (s : State) : Answer := .next (todStore .hr v s)

/-- The hold: all four fields at once, unless one is held already (R205). -/
def takeHold (d : Tod) : Tod := if d.latched then d else { d with snap := d.clk, latched := true }

/-- `LD.TODHR` (R205): the read that starts the hold. -/
def execLdTodhr (s : State) : Answer :=
  let s := { s with cia.tod := takeHold s.cia.tod }
  .next (s.loadView .todhr s.cia.tod.snap.hr)

/-- `PK.TODHR` (R206): no hold is taken. -/
def execPkTodhr (s : State) : Answer := readOnly (s.todRead .hr) s

/-! ## The tick (R210) -/

/-- The tick boundary of the write-buffer: the marked fields reach the clock, stopped or not. -/
def commitBuffer (d : Tod) : Tod := { d with clk := d.clk.commit d.wbuf d.wmask, wmask := 0 }

/-- One tenth of a second: the increment, and the compare of all 32 bits with the alarm (R210's pseudocode). Corner
case (d) of R210, a first match twelve hours after the start from the reset values, does not follow from it: the
reset alarm's hours `$00` (10_state.md R68) are no hour that R193 reaches from a legal one, so there is no match
(DEDUCED, unsafe: log entry 14). -/
def todTenth (s : State) : State :=
  let s := { s with cia.tod.ticks := 0, cia.tod.clk := s.cia.tod.clk.increment }
  if s.cia.tod.clk = s.cia.tod.alarm then raiseSource .tod s else s

/-- One sub-tick of a running clock. -/
def todSubTick (s : State) : State :=
  if s.todDiv ≤ s.cia.tod.ticks + 1 then todTenth s
  else { s with cia.tod.ticks := s.cia.tod.ticks + 1 }

/-- One sub-tick of the TOD input on an enabled block. -/
def todTick (s : State) : State :=
  let s := { s with cia.tod := commitBuffer s.cia.tod }
  if s.cia.tod.stopped then s else todSubTick s

/-- `TODTICK` (R210). -/
def execTodtick (s : State) : Answer :=
  if s.cia.enabled then .next (todTick s.silent) else .next s.silent

end Sys2Proof.Machine
end

