-- ==== Sys2Proof/Machine/Dispatch.lean ====
section
/-! DEFINITION. The dispatch of the 58 operations of 30_encoding.md R101 to their meanings, one arm each. -/

namespace Sys2Proof.Machine

def exec (i : Instr) (s : State) : Host.Outcome State Fault Refusal :=
  match i with
  | .ldPra => Sys2Proof.Machine.execLdPra s
  | .ldPrb => Sys2Proof.Machine.execLdPrb s
  | .ldDdra => Sys2Proof.Machine.execLdDdra s
  | .ldDdrb => Sys2Proof.Machine.execLdDdrb s
  | .ldTalo => Sys2Proof.Machine.execLdTalo s
  | .ldTahi => Sys2Proof.Machine.execLdTahi s
  | .ldTblo => Sys2Proof.Machine.execLdTblo s
  | .ldTbhi => Sys2Proof.Machine.execLdTbhi s
  | .ldTod10 => Sys2Proof.Machine.execLdTod10 s
  | .ldTodsec => Sys2Proof.Machine.execLdTodsec s
  | .ldTodmin => Sys2Proof.Machine.execLdTodmin s
  | .ldTodhr => Sys2Proof.Machine.execLdTodhr s
  | .ldSdr => Sys2Proof.Machine.execLdSdr s
  | .ldIcr => Sys2Proof.Machine.execLdIcr s
  | .ldCra => Sys2Proof.Machine.execLdCra s
  | .ldCrb => Sys2Proof.Machine.execLdCrb s
  | .stPra v => Sys2Proof.Machine.execStPra v s
  | .stPrb v => Sys2Proof.Machine.execStPrb v s
  | .stDdra v => Sys2Proof.Machine.execStDdra v s
  | .stDdrb v => Sys2Proof.Machine.execStDdrb v s
  | .stTalo v => Sys2Proof.Machine.execStTalo v s
  | .stTahi v => Sys2Proof.Machine.execStTahi v s
  | .stTblo v => Sys2Proof.Machine.execStTblo v s
  | .stTbhi v => Sys2Proof.Machine.execStTbhi v s
  | .stTod10 v => Sys2Proof.Machine.execStTod10 v s
  | .stTodsec v => Sys2Proof.Machine.execStTodsec v s
  | .stTodmin v => Sys2Proof.Machine.execStTodmin v s
  | .stTodhr v => Sys2Proof.Machine.execStTodhr v s
  | .stSdr v => Sys2Proof.Machine.execStSdr v s
  | .stIcr v => Sys2Proof.Machine.execStIcr v s
  | .stCra v => Sys2Proof.Machine.execStCra v s
  | .stCrb v => Sys2Proof.Machine.execStCrb v s
  | .pkPra => Sys2Proof.Machine.execPkPra s
  | .pkPrb => Sys2Proof.Machine.execPkPrb s
  | .pkDdra => Sys2Proof.Machine.execPkDdra s
  | .pkDdrb => Sys2Proof.Machine.execPkDdrb s
  | .pkTalo => Sys2Proof.Machine.execPkTalo s
  | .pkTahi => Sys2Proof.Machine.execPkTahi s
  | .pkTblo => Sys2Proof.Machine.execPkTblo s
  | .pkTbhi => Sys2Proof.Machine.execPkTbhi s
  | .pkTod10 => Sys2Proof.Machine.execPkTod10 s
  | .pkTodsec => Sys2Proof.Machine.execPkTodsec s
  | .pkTodmin => Sys2Proof.Machine.execPkTodmin s
  | .pkTodhr => Sys2Proof.Machine.execPkTodhr s
  | .pkSdr => Sys2Proof.Machine.execPkSdr s
  | .pkIcr => Sys2Proof.Machine.execPkIcr s
  | .pkCra => Sys2Proof.Machine.execPkCra s
  | .pkCrb => Sys2Proof.Machine.execPkCrb s
  | .phi2 => Sys2Proof.Machine.execPhi2 s
  | .todtick => Sys2Proof.Machine.execTodtick s
  | .cnt level => Sys2Proof.Machine.execCnt level s
  | .sp level => Sys2Proof.Machine.execSp level s
  | .flag => Sys2Proof.Machine.execFlag s
  | .setsdr v => Sys2Proof.Machine.execSetsdr v s
  | .pina v => Sys2Proof.Machine.execPina v s
  | .pinb v => Sys2Proof.Machine.execPinb v s
  | .reset => Sys2Proof.Machine.execReset s
  | .disable => Sys2Proof.Machine.execDisable s

end Sys2Proof.Machine
end

