-- ==== Sys2Proof/Machine/Bus.lean ====
section
/-! DEFINITION. The three entry points of a CPU model placed around the block (20_memory.md R81, R95). -/

namespace Sys2Proof.Machine

/-- `MemRead(addr, 1)`: `LD` at `addr & $F`. -/
def memRead (addr : Nat) (s : State) : Answer := exec (.ofLoad (.ofAddr addr)) s

/-- `MemWrite(addr, 1, v)`: `ST` at `addr & $F`. -/
def memWrite (addr : Nat) (v : Byte) (s : State) : Answer := exec (.ofStore (.ofAddr addr) v) s

/-- `Peek(addr)`: `PK` at `addr & $F`. -/
def memPeek (addr : Nat) (s : State) : Answer := exec (.ofPeek (.ofAddr addr)) s

end Sys2Proof.Machine
end

