-- ==== Sys2Proof/Machine/Fetch.lean ====
section
/-! DEFINITION. How the next operation is taken from what the environment supplies (00_scope.md R9; 20_memory.md
R90): the oldest pending stimulus word, decoded. -/

namespace Sys2Proof.Machine

/-- What the block does next. -/
inductive Fetched where
  /-- no operation is pending: the block fetches nothing of its own and stands still -/
  | idle
  /-- the operation of the oldest pending word, and the words after it -/
  | operation (i : Instr) (rest : List Word)
  /-- a word with no operation -/
  | reserved (w : Word)
deriving DecidableEq, Repr

/-- Decode the oldest pending word. -/
def fetch (script : List Word) : Fetched :=
  match script with
  | [] => .idle
  | w :: rest =>
    match decode w with
    | .ok i => .operation i rest
    | .error _ => .reserved w

/-- One step: the oldest pending operation, performed to completion; nothing where none is pending; a refusal
for a reserved word (20_memory.md R90; 30_encoding.md R105). -/
def stepFetched (s : State) : Answer :=
  match fetch s.script with
  | .idle => .next s
  | .operation i rest => exec i { s with script := rest }
  | .reserved w => .refused (.reservedWord w)

/-- The state with one more stimulus word, the next to be applied. -/
def State.supply (s : State) (w : Word) : State := { s with script := w :: s.script }

end Sys2Proof.Machine
end

