-- ==== Sys2Proof/Machine/Step.lean ====
section
/-! DEFINITION. The step function and the placing of one instruction where the step takes its next. -/

namespace Sys2Proof.Machine

/-- One step of the machine: one operation of the environment, or nothing where none is pending (log entry 1). -/
def step (s : State) : Host.Outcome State Fault Refusal := stepFetched s

/-- `s` with the stimulus word whose bits are `w` before every pending word, so that the next step applies it
(log entry 1). -/
def State.withFetchWord (s : State) (nbits w : Nat) : State := s.supply (tableWord nbits w)

end Sys2Proof.Machine
end

