-- ==== Sys2Proof/Machine/Script.lean ====
section
/-! DEFINITION. Stimulus scripts: what a line of 30_encoding.md R108 and a pseudo-operation of R109 stand for, and
a reader of the lines as text. They add no semantics: a script is the list of words it expands to. -/

namespace Sys2Proof.Machine

/-! ## Expansion (R108, R109) -/

/-- The byte of a number in range. -/
def byteOf (n : Nat) : Byte := BitVec.ofNat 8 n

/-- A bus word with a numeric address `addr6`, bits 5:4 of it in the ignored bits 13:12 (R102, R108). -/
def addressWord (fmt : BitVec 2) (addr : Nat) (data : Byte) : Word := fmt ++ BitVec.ofNat 6 addr ++ data

/-- `xs` repeated `n` times. -/
def repeated (n : Nat) (xs : List Instr) : List Instr := (List.replicate n xs).flatten

/-- `SETTOD`: hours first stops the clock, tenths last starts it (R109). -/
def setTod (hr min sec ten : Byte) : List Instr := [.stTodhr hr, .stTodmin min, .stTodsec sec, .stTod10 ten]

/-- `RDTOD`: hours first starts the hold, tenths last releases it (R109). -/
def readTod : List Instr := [.ldTodhr, .ldTodmin, .ldTodsec, .ldTod10]

/-- The operations a line without a numeric address stands for; a line with one has its word below. -/
def lineInstrs : ScriptLine → List Instr
  | .load r => [.ofLoad r]
  | .store r byte => [.ofStore r (byteOf byte)]
  | .peek r => [.ofPeek r]
  | .loadAt addr => [.ofLoad (.ofAddr addr)]
  | .storeAt addr byte => [.ofStore (.ofAddr addr) (byteOf byte)]
  | .peekAt addr => [.ofPeek (.ofAddr addr)]
  | .phi2 n => repeated n [.phi2]
  | .todtick n => repeated n [.todtick]
  | .cnt bit => [.cnt (bit == 1)]
  | .sp bit => [.sp (bit == 1)]
  | .flag => [.flag]
  | .setsdr byte => [.setsdr (byteOf byte)]
  | .pina byte => [.pina (byteOf byte)]
  | .pinb byte => [.pinb (byteOf byte)]
  | .reset => [.reset]
  | .disable => [.disable]
  | .cntpulse n => repeated n [.cnt false, .cnt true]
  | .st16Ta value => [.stTalo (byteOf value), .stTahi (byteOf (value / 256))]
  | .st16Tb value => [.stTblo (byteOf value), .stTbhi (byteOf (value / 256))]
  | .settod hr min sec ten => setTod (byteOf hr) (byteOf min) (byteOf sec) (byteOf ten)
  | .rdtod => readTod

/-- The stimulus words of a line: canonical, but for a numeric address, whose six bits are all kept. -/
def lineWords (l : ScriptLine) : List Word :=
  match l with
  | .loadAt addr => [addressWord 0 addr 0]
  | .storeAt addr byte => [addressWord 1 addr (byteOf byte)]
  | .peekAt addr => [addressWord 2 addr 0]
  | _ => (lineInstrs l).map encode

/-- The machine with a script's words after every pending one. -/
def State.withScript (s : State) (ls : List ScriptLine) : State :=
  { s with script := s.script ++ ls.flatMap lineWords }

/-! ## Reading a line of text (R108; log entry 13) -/

/-- A digit of base 10 or 16. -/
def digitOf (c : Char) : Option Nat :=
  let n := c.toNat
  if 48 ≤ n ∧ n ≤ 57 then some (n - 48)
  else if 65 ≤ n ∧ n ≤ 70 then some (n - 55)
  else if 97 ≤ n ∧ n ≤ 102 then some (n - 87)
  else none

/-- The number of a run of digits, `acc` being that of the digits before. -/
def digitsFrom (base acc : Nat) : List Char → Option Nat
  | [] => some acc
  | c :: cs =>
    match digitOf c with
    | some d => if d < base then digitsFrom base (acc * base + d) cs else none
    | none => none

/-- A number: `$` and hexadecimal digits, or decimal digits. -/
def numberOf : List Char → Option Nat
  | [] => none
  | '$' :: [] => none
  | '$' :: c :: cs => digitsFrom 16 0 (c :: cs)
  | c :: cs => digitsFrom 10 0 (c :: cs)

/-- The words of a line between spaces, `cur` being the letters of the word begun, up to a `;`. -/
def tokensFrom (cur : List Char) : List Char → List (List Char)
  | [] => if cur = [] then [] else [cur]
  | c :: cs =>
    if c = ';' then (if cur = [] then [] else [cur])
    else if c = ' ' then (if cur = [] then tokensFrom [] cs else cur :: tokensFrom [] cs)
    else tokensFrom (cur ++ [c]) cs

/-- What follows `head` in `t`. -/
def afterHead : List Char → List Char → Option (List Char)
  | [], t => some t
  | _ :: _, [] => none
  | h :: hs, c :: cs => if h = c then afterHead hs cs else none

/-- The register names of 00_scope.md R14. -/
def regNames : List (String × Reg) :=
  [("PRA", .pra), ("PRB", .prb), ("DDRA", .ddra), ("DDRB", .ddrb), ("TALO", .talo), ("TAHI", .tahi),
   ("TBLO", .tblo), ("TBHI", .tbhi), ("TOD10", .tod10), ("TODSEC", .todsec), ("TODMIN", .todmin),
   ("TODHR", .todhr), ("SDR", .sdr), ("ICR", .icr), ("CRA", .cra), ("CRB", .crb)]

/-- The register of a name. -/
def regOf (t : List Char) : Option Reg :=
  match regNames.find? (fun p => p.1.toList == t) with
  | some p => some p.2
  | none => none

/-- The register of `head` followed by its name. -/
def regAfter (head : String) (t : List Char) : Option Reg := (afterHead head.toList t).bind regOf

/-- The number of `head` followed by it. -/
def numberAfter (head : String) (t : List Char) : Option Nat := (afterHead head.toList t).bind numberOf

/-- A line of one word. -/
def lineOfOne (t : List Char) : Option ScriptLine :=
  (regAfter "LD." t).map .load
  <|> (regAfter "PK." t).map .peek
  <|> (numberAfter "PHI2*" t).map .phi2
  <|> (numberAfter "TODTICK*" t).map .todtick
  <|> (numberAfter "CNTPULSE*" t).map .cntpulse
  <|> if t = "PHI2".toList then some (.phi2 1)
  else if t = "TODTICK".toList then some (.todtick 1)
  else if t = "CNTPULSE".toList then some (.cntpulse 1)
  else if t = "FLAG".toList then some .flag
  else if t = "RESET".toList then some .reset
  else if t = "DISABLE".toList then some .disable
  else if t = "RDTOD".toList then some .rdtod
  else none

/-- A line of a word and a number. -/
def lineOfTwo (t : List Char) (n : Nat) : Option ScriptLine :=
  (regAfter "ST." t).map (fun r => .store r n)
  <|> if t = "CNT".toList then some (.cnt n)
  else if t = "SP".toList then some (.sp n)
  else if t = "SETSDR".toList then some (.setsdr n)
  else if t = "PINA".toList then some (.pina n)
  else if t = "PINB".toList then some (.pinb n)
  else if t = "ST16.TA".toList then some (.st16Ta n)
  else if t = "ST16.TB".toList then some (.st16Tb n)
  else none

/-- A line of a word and a numeric address. -/
def lineOfAddress (t : List Char) (addr : Nat) : Option ScriptLine :=
  if t = "LD".toList then some (.loadAt addr)
  else if t = "PK".toList then some (.peekAt addr)
  else none

/-- A line of its words. -/
def lineOfTokens : List (List Char) → Option ScriptLine
  | [t] => lineOfOne t
  | [t, x] =>
    (numberAfter "@" x).bind (lineOfAddress t) <|> (numberOf x).bind (lineOfTwo t)
  | [t, x, y] =>
    if t = "ST".toList then
      (numberAfter "@" x).bind (fun addr => (numberOf y).map (.storeAt addr))
    else none
  | [t, w, x, y, z] =>
    if t = "SETTOD".toList then
      match numberOf w, numberOf x, numberOf y, numberOf z with
      | some hr, some min, some sec, some ten => some (.settod hr min sec ten)
      | _, _, _, _ => none
    else none
  | _ => none

/-- The lines of a text line: none where it is malformed or a number is out of range, the empty list where it
is blank or a comment. -/
def readLine (line : String) : Option (List ScriptLine) :=
  match tokensFrom [] line.toList with
  | [] => some []
  | ts =>
    match lineOfTokens ts with
    | some l => if l.wf then some [l] else none
    | none => none

end Sys2Proof.Machine
end

