-- ==== Sys2Proof/Safety.lean ====
section
/-! DEFINITION. The terms claims use: the invariants of 10_state.md R65 and of the outputs, legal BCD, what the
environment can tell apart, and runs. -/

namespace Sys2Proof.Machine

/-! ## The invariant of the state (10_state.md R65, R40, R56; 44_icr.md R242) -/

/-- R65 (a): the LOAD strobe is never stored. -/
def Cia.loadClear (c : Cia) : Bool := !c.regs.cra.getLsbD 4 && !c.regs.crb.getLsbD 4

/-- R65 (b): flag bits 6:5 are always 0. -/
def Cia.flagGapClear (c : Cia) : Bool := c.icr.flags.extractLsb' 5 2 == 0#2

/-- R65 (c): IR is set only with a source flag. -/
def Cia.irHasSource (c : Cia) : Bool := !c.icr.ir || c.icr.sources != 0#5

/-- R65 (d) and R242: the line is driven exactly while IR is set. -/
def Cia.lineIsIr (c : Cia) : Bool := c.irqOut == c.icr.ir

/-- R65 (e): the bit counter is at most 7. -/
def Cia.bitsBounded (c : Cia) : Bool := decide (c.sdr.bits ≤ 7)

/-- R65 (f): the sub-tick counter is at most 5. -/
def Cia.ticksBounded (c : Cia) : Bool := decide (c.tod.ticks ≤ 5)

/-- R65 (g) without its clause about `tb.skip`, which the operation rules do not keep (log entry 5): a stopped
timer has no start-up delay. -/
def Cia.stoppedHasNoDelay (c : Cia) : Bool :=
  (c.regs.cra.getLsbD 0 || c.ta.delay == 0) && (c.regs.crb.getLsbD 0 || c.tb.delay == 0)

/-- The clause of R65 (g) about `tb.skip`: a stopped Timer B has no tick to lose. -/
def Cia.stoppedHasNoSkip (c : Cia) : Bool := c.regs.crb.getLsbD 0 || c.tb.skip == 0

/-- R65 (h): a force-finish has a byte in flight, in input mode. -/
def Cia.forceFinishCoherent (c : Cia) : Bool :=
  !c.sdr.forceFinish || (c.sdr.inflight && !c.regs.cra.getLsbD 6)

/-- R40, R41, R56: the delay counters stay within the parameters that arm them. -/
def State.delaysBounded (s : State) : Bool :=
  decide (s.cia.ta.delay ≤ startDelay s.cfg.model) && decide (s.cia.tb.delay ≤ startDelay s.cfg.model) &&
    decide (s.cia.sdr.delay ≤ s.cfg.sdrDelay)

/-- The invariant every operation keeps. -/
def State.inv (s : State) : Bool :=
  s.cia.loadClear && s.cia.flagGapClear && s.cia.irHasSource && s.cia.lineIsIr && s.cia.bitsBounded &&
    s.cia.ticksBounded && s.cia.stoppedHasNoDelay && s.cia.forceFinishCoherent && s.delaysBounded

/-! ## The outputs mirror the trace (10_state.md R60, R61, R64; 44_icr.md R248) -/

/-- The byte of the last `PortA` event, `v` if there is none. -/
def lastPortA (v : Byte) : List OutEvent → Byte
  | [] => v
  | .portA x :: es => lastPortA x es
  | _ :: es => lastPortA v es

/-- The byte of the last `PortB` event, `v` if there is none. -/
def lastPortB (v : Byte) : List OutEvent → Byte
  | [] => v
  | .portB x :: es => lastPortB x es
  | _ :: es => lastPortB v es

/-- The level of the last `SerialPin` event, `b` if there is none. -/
def lastSerialPin (b : Bool) : List OutEvent → Bool
  | [] => b
  | .serialPin x :: es => lastSerialPin x es
  | _ :: es => lastSerialPin b es

/-- The level of the last `CountPin` event, `b` if there is none. -/
def lastCountPin (b : Bool) : List OutEvent → Bool
  | [] => b
  | .countPin x :: es => lastCountPin x es
  | _ :: es => lastCountPin b es

/-- The level of the last `IrqLine` event, `b` if there is none. -/
def lastIrqLine (b : Bool) : List OutEvent → Bool
  | [] => b
  | .irqLine _ _ x :: es => lastIrqLine x es
  | _ :: es => lastIrqLine b es

/-- The `IrqLine` events of a trace. -/
def irqEvents (es : List OutEvent) : List OutEvent :=
  es.filter fun e =>
    match e with
    | .irqLine _ _ _ => true
    | _ => false

/-- The `SerialPin` and `CountPin` events of a trace, in their order. -/
def serialEvents (es : List OutEvent) : List OutEvent :=
  es.filter fun e =>
    match e with
    | .serialPin _ | .countPin _ => true
    | _ => false

/-- The `PortA` and `PortB` events of a trace, in their order. -/
def portEvents (es : List OutEvent) : List OutEvent :=
  es.filter fun e =>
    match e with
    | .portA _ | .portB _ => true
    | _ => false

/-- The events of one shift event that puts `bit` on SP: CNT low if it is not, the bit if it changes the level, CNT
high (43_sdr.md R221, R222). -/
def Cia.shiftEvents (c : Cia) (bit : Bool) : List OutEvent :=
  (if c.cntOut then [.countPin false] else []) ++ (if bit = c.spOut then [] else [.serialPin bit]) ++
    [.countPin true]

/-- Every event of the trace changes the output it is about, from the levels given: no event repeats the level
its output already has ("only on observed output changes"; assert and release alternate, R248). -/
def changesOnly (pa pb : Byte) (sp cnt irq : Bool) : List OutEvent → Bool
  | [] => true
  | .portA x :: es => x != pa && changesOnly x pb sp cnt irq es
  | .portB x :: es => x != pb && changesOnly pa x sp cnt irq es
  | .serialPin x :: es => x != sp && changesOnly pa pb x cnt irq es
  | .countPin x :: es => x != cnt && changesOnly pa pb sp x irq es
  | .irqLine _ _ x :: es => x != irq && changesOnly pa pb sp cnt x es

/-- The five output levels of the state are those of the last events, or the levels construction leaves
(45_system.md R260), and every event was a change. -/
def State.outputsMirrorTrace (s : State) : Bool :=
  s.cia.oldPortA == lastPortA 0xFF s.trace && s.cia.oldPortB == lastPortB 0xFF s.trace &&
    s.cia.spOut == lastSerialPin true s.trace && s.cia.cntOut == lastCountPin true s.trace &&
    s.cia.irqOut == lastIrqLine false s.trace && changesOnly 0xFF 0xFF true true false s.trace

/-- The bytes last emitted are the bytes the ports present: every rule that can change an input of `PAout()` or
`PBout()` updates the port (40_ports.md R132, R135). -/
def State.portsPresented (s : State) : Bool :=
  s.cia.oldPortA == s.portAOut && s.cia.oldPortB == s.portBOut

/-- Every `IrqLine` event names the instance's own line and driver (44_icr.md R242). -/
def State.irqEventsNamed (s : State) : Bool :=
  s.trace.all fun e =>
    match e with
    | .irqLine kind id _ => kind == s.cfg.irqLine && id == s.cfg.ctxId
    | _ => true

/-! ## Legal BCD (10_state.md R31 to R34, R65) -/

/-- The legal range of a field. -/
def legalField (f : TodField) (v : Byte) : Bool :=
  match f with
  | .ten => decide (v.toNat ≤ 9)
  | .sec | .min => decide (v.toNat / 16 ≤ 5) && decide (v.toNat % 16 ≤ 9)
  | .hr =>
    let x := v.toNat % 128
    (decide (1 ≤ x) && decide (x ≤ 9)) || (decide (0x10 ≤ x) && decide (x ≤ 0x12))

/-- All four fields of a time are legal. -/
def TodTime.legal (t : TodTime) : Bool :=
  legalField .hr t.hr && legalField .min t.min && legalField .sec t.sec && legalField .ten t.ten

/-- The running clock is legal, and so is every field the write-buffer holds for it. -/
def Tod.legal (d : Tod) : Bool := d.clk.legal && (d.clk.commit d.wbuf d.wmask).legal

/-- The operation stores no malformed byte to a TOD register (90_conflicts.md C4). -/
def legalTodStore : Instr → Bool
  | .stTod10 v => legalField .ten v
  | .stTodsec v => legalField .sec v
  | .stTodmin v => legalField .min v
  | .stTodhr v => legalField .hr v
  | _ => true

/-! ## What the environment can tell apart (10_state.md R22, R23, R51) -/

/-- The shadow without the view registers' bytes, which no rule reads (R23). -/
def Regs.storage (f : Regs) : Regs :=
  { f with
    talo := 0, tahi := 0, tblo := 0, tbhi := 0, tod10 := 0, todsec := 0, todmin := 0, todhr := 0, icr := 0 }

/-- The state without what no rule reads: the view registers' shadow bytes (R23), and the shifter's bits 15:9
(R51). -/
def Cia.observable (c : Cia) : Cia :=
  { c with
    regs := c.regs.storage, sdr := { c.sdr with shifter := c.sdr.shifter &&& 0x01FF } }

/-- Two states the block cannot be told apart in: equal parameters and equal state but for what no rule reads. -/
def State.indistinct (s t : State) : Prop := s.cfg = t.cfg ∧ s.cia.observable = t.cia.observable

/-! ## Ticks and underflows, in the words of 41_timers.md R141 to R146 -/

/-- A `PHI2` is a counted tick of Timer A. -/
def State.phi2CountsA (s : State) : Bool := s.started .a && s.cia.ta.delay == 0 && !s.countsCntA

/-- A rising edge of CNT is a counted tick of Timer A. -/
def State.cntCountsA (s : State) : Bool := s.started .a && s.cia.ta.delay == 0 && s.countsCntA

/-- A counted tick underflows a timer whose count is 0 or 1 (R143). -/
def Timer.atEnd (x : Timer) : Bool := decide (x.count.toNat ≤ 1)

/-- A `PHI2` is an accepted tick of Timer B, `uA` saying whether Timer A underflows in it. -/
def State.phi2AcceptsB (s : State) (uA : Bool) : Bool :=
  s.started .b && s.cia.tb.delay == 0 &&
    match (s.inmodeB).toNat with
    | 0 => true
    | 1 => false
    | 2 => uA
    | _ => uA && s.cia.cnt

/-- A rising edge of CNT is an accepted tick of Timer B, `uA` saying whether Timer A underflows in it. -/
def State.cntAcceptsB (s : State) (uA : Bool) : Bool :=
  s.started .b && s.cia.tb.delay == 0 &&
    match (s.inmodeB).toNat with
    | 0 => false
    | 1 => true
    | 2 => uA
    | _ => uA

/-- The ticks Timer B has to lose once Timer A's underflow, if there is one, has met a restart (R146). -/
def State.skipAfterA (s : State) (uA : Bool) : Nat :=
  s.cia.tb.skip + if uA && s.cia.tbRestart then s.cfg.tbBugLoss else 0

/-- Timer B underflows: an accepted tick, none to lose, and the count at its end. -/
def State.underflowsB (s : State) (accepted uA : Bool) : Bool :=
  accepted && s.skipAfterA uA == 0 && s.cia.tb.toTimer.atEnd

/-- Timer A underflows in the operation (R143). -/
def State.underflowsA (s : State) : Instr → Bool
  | .phi2 => s.phi2CountsA && s.cia.ta.atEnd
  | .cnt level => level && !s.cia.cnt && s.cntCountsA && s.cia.ta.atEnd
  | _ => false

/-- The deferral of a queued byte as an underflow of Timer A in the operation finds it: `PHI2` has counted it down
(R170). -/
def State.sdrDelayIn (s : State) : Instr → Nat
  | .phi2 => s.cia.sdr.delay - 1
  | _ => s.cia.sdr.delay

/-- The eighth shift event of an output byte at an underflow of Timer A (43_sdr.md R222). -/
def State.completesOutput (s : State) (uA : Bool) : Bool :=
  uA && (s.serialOut || s.cia.sdr.forceFinish) && s.cia.sdr.inflight && s.cia.sdr.bits == 7

/-- What one operation does to a timer's count, output flip-flop and START bit: nothing without a counted tick, one
down on a counted tick, and the reload, the toggle, the pulse and the one-shot stop on an underflow (R143 to
R145). -/
def ticked (s t : State) (id : TimerId) (counted : Bool) : Prop :=
  (t.timer id).latch = (s.timer id).latch ∧
  if counted && (s.timer id).atEnd then
    (t.timer id).count = (s.timer id).latch ∧ (t.timer id).tog = !(s.timer id).tog ∧
      (t.timer id).pulse = true ∧ t.started id = (s.started id && !s.oneShot id)
  else
    (t.timer id).tog = (s.timer id).tog ∧ t.started id = s.started id ∧
      (t.timer id).count = if counted then (s.timer id).count - 1 else (s.timer id).count

/-- What one operation does to the flags, the line and the `IrqLine` events when the sources `src` fire in it and
the Timer B bug occurs or not: all of them latched, IR set and the line asserted at most once
(44_icr.md R241, R242; 60_exceptions.md R287). -/
def sourcesFired (s t : State) (src : BitVec 5) (tbb : Bool) : Prop :=
  t.cia.icr.mask = s.cia.icr.mask ∧
  t.cia.icr.sources = s.cia.icr.sources ||| src ∧
  t.cia.icr.flags.extractLsb' 5 2 = s.cia.icr.flags.extractLsb' 5 2 ∧
  t.cia.icr.flags.getLsbD 8 = (s.cia.icr.flags.getLsbD 8 || tbb) ∧
  t.cia.icr.ir = (s.cia.icr.ir || (src != 0#5 && t.cia.icr.sources &&& t.cia.icr.mask != 0#5)) ∧
  t.cia.irqOut = (s.cia.irqOut || (!s.cia.icr.ir && t.cia.icr.ir)) ∧
  irqEvents t.trace = irqEvents s.trace ++
    if !s.cia.icr.ir && t.cia.icr.ir then [.irqLine s.cfg.irqLine s.cfg.ctxId true] else []

/-- The five sources as flag bits 4:0, in the order TA, TB, TOD, SDR, FLG of bits 0 to 4. -/
def sourceBits (ta tb tod sdr flg : Bool) : BitVec 5 :=
  BitVec.ofBool flg ++ BitVec.ofBool sdr ++ BitVec.ofBool tod ++ BitVec.ofBool tb ++ BitVec.ofBool ta

/-- What `PHI2` and `CNT` may change of the block, `c` and `d` being the block before and after: everything else
stays, and of the shadow only the START bits and, by a completed input byte, `SDR`. -/
def clockFrame (c d : Cia) : Prop :=
  d = { c with
    regs := { c.regs with cra := d.regs.cra, crb := d.regs.crb, sdr := d.regs.sdr }
    ta := d.ta, tb := d.tb, tbRestart := d.tbRestart, sdr := d.sdr
    icr := { c.icr with flags := d.icr.flags }
    irqOut := d.irqOut, oldPortB := d.oldPortB, cnt := d.cnt, spOut := d.spOut, cntOut := d.cntOut } ∧
  (∀ i, i < 8 → i ≠ 0 → d.regs.cra.getLsbD i = c.regs.cra.getLsbD i) ∧
  (∀ i, i < 8 → i ≠ 0 → d.regs.crb.getLsbD i = c.regs.crb.getLsbD i)

/-! ## The clock as a number -/

/-- The hours byte as hours since midnight: 12 AM is 0, 12 PM is 12. -/
def hourNumber (h : Byte) : Nat :=
  let x := h.toNat % 128
  (x / 16 * 10 + x % 16) % 12 + if h.getLsbD 7 then 12 else 0

/-- A packed BCD byte as a number. -/
def bcdNumber (v : Byte) : Nat := v.toNat / 16 * 10 + v.toNat % 16

/-- A legal time as tenths of a second since midnight. -/
def TodTime.tenths (t : TodTime) : Nat :=
  ((hourNumber t.hr * 60 + bcdNumber t.min) * 60 + bcdNumber t.sec) * 10 + bcdNumber t.ten

/-! ## Operations that ignore time (45_system.md R262) -/

/-- The four events that do nothing to a disabled block. -/
def frozenWhenDisabled : Instr → Bool
  | .phi2 | .todtick | .flag | .setsdr _ => true
  | _ => false

/-! ## Runs -/

/-- The operations `is`, in order (00_scope.md R9: a program is a list the environment supplies). -/
def execList : List Instr → State → Answer
  | [], s => .next s
  | i :: is, s =>
    match exec i s with
    | .next t => execList is t
    | .fault r => .fault r
    | .refused r => .refused r

end Sys2Proof.Machine
end

