-- ==== Sys2Proof/Certificates/Slice0/Obligations.lean ====
section
/-! DEFINITION. The statements for the provers. A statement of an operation's result is an equation `exec i s = .next t`
with `t` given whole where that is short, and otherwise `there is t` with every field of `t` given, so that it is
the operation's completion statement and its frame at once. -/

open Sys2Proof Sys2Proof.Machine

/-! ## Encoding -/

/-- Decoding the canonical word of any operation gives the operation back, with every operand at every value. -/
def Obligations.DecodeInvertsEncode : Prop := ∀ i : Instr, decode (encode i) = .ok i

/-- A word decodes to an operation whose canonical word is the word with its ignored bits cleared: no significant
bit is dropped or invented (30_encoding.md R102, R103). -/
def Obligations.EncodeKeepsSignificantBits : Prop :=
  ∀ (w : Word) (i : Instr), decode w = .ok i → encode i = w &&& significantBits i

/-- 30_encoding.md R104: which words match a bus operation and which an event, and the canonical word. No two rows
match one word (R110). -/
def Obligations.DecodeByMatchAndMask : Prop :=
  (∀ (w : Word) (r : Reg),
    (decode w = .ok (.ofLoad r) ↔ w &&& 0xCF00 = (0 <<< 14) ||| (r.offset.setWidth 16 <<< 8)) ∧
    (decode w = .ok (.ofPeek r) ↔ w &&& 0xCF00 = (2 <<< 14) ||| (r.offset.setWidth 16 <<< 8)) ∧
    ∀ v : Byte,
      decode w = .ok (.ofStore r v) ↔
        w &&& 0xCF00 = (1 <<< 14) ||| (r.offset.setWidth 16 <<< 8) ∧ v = w.setWidth 8) ∧
  (∀ (w : Word) (c : BitVec 6),
    (∃ e : Event, e.code = c ∧ decode w = .ok (.ofEvent e)) ↔
      w &&& 0xFF00 = 0xC000 ||| (c.setWidth 16 <<< 8) ∧ c.toNat < 10) ∧
  (∀ i : Instr, encode i &&& ~~~significantBits i = 0) ∧
  (∀ (w : Word) (i j : Instr),
    w &&& rowMask i = rowMatch i → w &&& rowMask j = rowMatch j →
      rowMask i = rowMask j ∧ rowMatch i = rowMatch j)

/-- A word is rejected exactly if it is `$CA00` or above, and a step that meets one refuses it by name. That reserved
words are refused is the spec's decision D31 (30_encoding.md R105). -/
def Obligations.ReservedWordsRefused : Prop :=
  (∀ w : Word, (∃ r, decode w = .error r) ↔ 0xCA00 ≤ w.toNat) ∧
  ∀ (s : State) (w : Word) (rest : List Word),
    s.script = w :: rest → 0xCA00 ≤ w.toNat → step s = .refused (.reservedWord w)

/-- A few words written out from the examples of 30_encoding.md R104 decode to their operations, and words with
ignored bits set to the same ones. -/
def Obligations.WrittenWordsDecode : Prop :=
  decode 0x4E11 = .ok (.stCra 0x11) ∧ decode 0x0D00 = .ok .ldIcr ∧ decode 0x8500 = .ok .pkTahi ∧
  decode 0xC000 = .ok .phi2 ∧ decode 0xC100 = .ok .todtick ∧ decode 0xC201 = .ok (.cnt true) ∧
  decode 0xC300 = .ok (.sp false) ∧ decode 0xC400 = .ok .flag ∧ decode 0xC5A5 = .ok (.setsdr 0xA5) ∧
  decode 0xC67F = .ok (.pina 0x7F) ∧ decode 0xC700 = .ok (.pinb 0x00) ∧ decode 0xC800 = .ok .reset ∧
  decode 0xC900 = .ok .disable ∧ decode 0x7E21 = .ok (.stCra 0x21) ∧ decode 0xBD12 = .ok .pkIcr ∧
  decode 0xC2FE = .ok (.cnt false)

/-! ## The step -/

/-- A step runs the operation the oldest pending word decodes to, at the state that no longer holds that word; the
word that `withFetchWord` places is the very next to run; with no word pending nothing happens, which is the
model's choice (log entry 1). -/
def Obligations.StepRunsPendingOperation : Prop :=
  (∀ (s : State) (w : Word) (rest : List Word) (i : Instr),
    s.script = w :: rest → decode w = .ok i → step s = exec i { s with script := rest }) ∧
  (∀ (s : State) (w : Nat) (i : Instr),
    decodeTableWord 16 w = some i → step (s.withFetchWord 16 w) = exec i s) ∧
  ∀ s : State, s.script = [] → step s = .next s

/-- 20_memory.md R81: every bus operation reaches the register of the address's low four bits, whatever the
address's width. -/
def Obligations.AddressMaskedToFourBits : Prop :=
  ∀ (addr : Nat) (v : Byte) (s : State),
    (Reg.ofAddr addr).offset.toNat = addr % 16 ∧
    memRead addr s = exec (.ofLoad (.ofOffset (BitVec.ofNat 4 (addr % 16)))) s ∧
    memWrite addr v s = exec (.ofStore (.ofOffset (BitVec.ofNat 4 (addr % 16))) v) s ∧
    memPeek addr s = exec (.ofPeek (.ofOffset (BitVec.ofNat 4 (addr % 16)))) s

/-! ## Construction, reset, disable -/

/-- Every element at reset, as the table of 10_state.md R68 has it (the values are the spec's decision D25). -/
def Obligations.ResetValues : Prop :=
  let c := State.reset.cia
  (∀ r, c.regs.get r = 0x00) ∧
  c.ta = { count := 0xFFFF, latch := 0xFFFF, delay := 0, tog := false, pulse := false } ∧
  c.tb.toTimer = { count := 0xFFFF, latch := 0xFFFF, delay := 0, tog := false, pulse := false } ∧
  c.tb.skip = 0 ∧ c.tbRestart = false ∧
  c.tod.clk = { hr := 0x01, min := 0x00, sec := 0x00, ten := 0x00 } ∧
  (∀ f, c.tod.alarm.get f = 0x00 ∧ c.tod.snap.get f = 0x00 ∧ c.tod.wbuf.get f = 0x00) ∧
  c.tod.latched = false ∧ c.tod.wmask = 0 ∧ c.tod.stopped = true ∧ c.tod.ticks = 0 ∧
  c.sdr.shifter = 0x0000 ∧ c.sdr.bits = 0 ∧ c.sdr.valid = false ∧ c.sdr.inflight = false ∧
  c.sdr.forceFinish = false ∧ c.sdr.delay = 0 ∧
  c.icr.mask = 0 ∧ c.icr.flags = 0 ∧ c.enabled = true ∧ c.irqOut = false ∧
  c.oldPortA = 0xFF ∧ c.oldPortB = 0xFF ∧ c.extA = 0xFF ∧ c.extB = 0xFF ∧
  c.cnt = true ∧ c.sp = true ∧ c.spOut = true ∧ c.cntOut = true ∧ State.reset.trace = []

/-- Construction hands over the reset state with the parameters given for the two valid tags, and fails for any
other (45_system.md R260). The start-up delay is 1 on the old part and 0 on the new one (00_scope.md R6, D8). -/
def Obligations.ConstructionChecksModel : Prop :=
  (∀ (k : IrqKind) (id loss delay : Nat),
    construct "OLD_6526" k id loss delay = .ok (.resetWith ⟨.old6526, k, id, loss, delay⟩) ∧
    construct "NEW_6526A" k id loss delay = .ok (.resetWith ⟨.new6526A, k, id, loss, delay⟩)) ∧
  (∀ (tag : String) (k : IrqKind) (id loss delay : Nat),
    tag ≠ "OLD_6526" → tag ≠ "NEW_6526A" →
      construct tag k id loss delay = .error (.invalidModelTag tag)) ∧
  startDelay .old6526 = 1 ∧ startDelay .new6526A = 0

/-- `RESET` from any state, disabled or not: the reset values, and one event for each output that changes, in the
order of 45_system.md R261 (the order is the spec's decision D25). -/
def Obligations.ResetOperation : Prop :=
  ∀ s : State,
    exec .reset s = .next { s with
      cia := State.reset.cia
      ret := none
      trace := s.trace ++
        ((if s.cia.irqOut = true then [.irqLine s.cfg.irqLine s.cfg.ctxId false] else []) ++
        (if s.cia.oldPortA ≠ 0xFF then [.portA 0xFF] else []) ++
        (if s.cia.oldPortB ≠ 0xFF then [.portB 0xFF] else []) ++
        (if s.cia.spOut = false then [.serialPin true] else []) ++
        (if s.cia.cntOut = false then [.countPin true] else [])) }

/-- `DISABLE` clears `enabled` and changes nothing else; while the block is disabled `PHI2`, `TODTICK`, `FLAG` and `SETSDR`
have no effect at all and `CNT` records the level only (45_system.md R262; that the one flag gates them is the
spec's decision D24). -/
def Obligations.DisabledBlockIsPassive : Prop :=
  (∀ s : State, exec .disable s = .next { s with cia.enabled := false, ret := none }) ∧
  ∀ s : State, s.cia.enabled = false →
    (∀ i, frozenWhenDisabled i = true → exec i s = .next { s with ret := none }) ∧
    ∀ level, exec (.cnt level) s = .next { s with cia.cnt := level, ret := none }

/-! ## Invariants -/

/-- Whatever its parameters, a constructed instance meets every invariant below. -/
def Obligations.ResetMeetsInvariants : Prop :=
  ∀ c : Config,
    (State.resetWith c).inv = true ∧ (State.resetWith c).outputsMirrorTrace = true ∧
    (State.resetWith c).portsPresented = true ∧ (State.resetWith c).cia.tod.legal = true ∧
    (State.resetWith c).irqEventsNamed = true

/-- Every step keeps the invariant of 10_state.md R65: no stored LOAD strobe, flag bits 6:5 zero, IR only with a source
and exactly while the line is asserted, the counters bounded, no start-up delay on a stopped timer, a
force-finish only with a byte in flight in input mode, the delays within the parameters. -/
def Obligations.StepKeepsStateInvariant : Prop :=
  ∀ s t : State, s.inv = true → step s = .next t → t.inv = true

/-- Every step keeps the output levels equal to those of the last events, and no event ever repeats the level its
output has: port and pin events are emitted only on change, and assertions and releases of the line alternate. And
every step keeps each event of the line naming the instance's own line and driver. -/
def Obligations.StepKeepsOutputsMirrored : Prop :=
  (∀ s t : State,
    s.cia.lineIsIr = true → s.outputsMirrorTrace = true → step s = .next t → t.outputsMirrorTrace = true) ∧
  ∀ s t : State, s.irqEventsNamed = true → step s = .next t → t.irqEventsNamed = true

/-- Every step keeps both ports' last emitted bytes equal to the bytes the ports present: no operation changes an
input of `PAout()` or `PBout()` without updating the port (40_ports.md R132, R135). -/
def Obligations.StepKeepsPortsPresented : Prop :=
  ∀ s t : State, s.portsPresented = true → step s = .next t → t.portsPresented = true

/-- The clock stays legal BCD as long as every byte stored to a TOD register is legal (10_state.md R65). -/
def Obligations.LegalStoresKeepClockLegal : Prop :=
  ∀ (i : Instr) (s t : State),
    s.cia.tod.legal = true → legalTodStore i = true → exec i s = .next t → t.cia.tod.legal = true

/-- The clause of R65 (g) about `tb.skip` does not follow from the spec's own operation rules, which the model follows
(log entry 5). With `TB_BUG_LOSS` above 0, twelve operations from the state of a fresh instance, old part or new,
break it and no other clause: a one-shot Timer B is restarted and underflows on the first of two edges of CNT,
which stops it, and Timer A's underflow on the second, in the same cycle, charges the stopped timer. And every step
keeps the clause unless it finds just this: a loss above 0, a restart in this cycle, and Timer B stopped. -/
def Obligations.SkipClauseNotKept : Prop :=
  (∀ c : Config, 0 < c.tbBugLoss → ∃ t,
    execList [.stTalo 0x02, .stTahi 0x00, .stTblo 0x01, .stTbhi 0x00, .stCra 0x21, .stCrb 0x29, .phi2,
      .stCrb 0x39, .cnt false, .cnt true, .cnt false, .cnt true] (.resetWith c) = .next t ∧
    t.started .b = false ∧ t.cia.tb.skip = c.tbBugLoss ∧ t.cia.stoppedHasNoSkip = false ∧ t.inv = true) ∧
  ∀ s t : State,
    s.cia.stoppedHasNoSkip = true →
    (s.cfg.tbBugLoss = 0 ∨ s.cia.tbRestart = false ∨ s.started .b = true) →
    step s = .next t → t.cia.stoppedHasNoSkip = true

/-! ## Rules about all operations -/

/-- No operation faults or is refused: each answers a next state (60_exceptions.md R280; 20_memory.md R89), leaves the
parameters alone (00_scope.md R6), and returns a byte exactly if it is a bus read or peek (00_scope.md R12). It
leaves the pending operations alone and only appends to the trace: where the two stand is the model's choice (log
entries 1 and 3). -/
def Obligations.EveryOperationAnswers : Prop :=
  ∀ (i : Instr) (s : State), ∃ t,
    exec i s = .next t ∧ t.cfg = s.cfg ∧ t.script = s.script ∧ (∃ es, t.trace = s.trace ++ es) ∧
    (t.ret.isSome = match i.shape with
      | .load _ | .peek _ => true
      | .store _ _ | .event _ => false)

/-- Only `LD.ICR` and `RESET` clear an interrupt flag or release the line (60_exceptions.md R285, R286). -/
def Obligations.OnlyAcknowledgeClearsFlags : Prop :=
  ∀ (i : Instr) (s t : State),
    i ≠ .ldIcr → i ≠ .reset → exec i s = .next t →
      s.cia.icr.flags &&& t.cia.icr.flags = s.cia.icr.flags ∧ (s.cia.irqOut = true → t.cia.irqOut = true)

/-- Only a store to `ICR` and `RESET` change the mask (60_exceptions.md R285, R288), only `DISABLE` and `RESET` the
enabled flag (10_state.md R59), only `PINA`, `PINB`, `SP`, `CNT` and `RESET` the input pins' levels. -/
def Obligations.MaskEnableAndPinsHaveOneWriter : Prop :=
  ∀ (i : Instr) (s t : State), i ≠ .reset → exec i s = .next t →
    ((∀ v, i ≠ .stIcr v) → t.cia.icr.mask = s.cia.icr.mask) ∧
    (i ≠ .disable → t.cia.enabled = s.cia.enabled) ∧
    ((∀ v, i ≠ .pina v) → t.cia.extA = s.cia.extA) ∧
    ((∀ v, i ≠ .pinb v) → t.cia.extB = s.cia.extB) ∧
    ((∀ b, i ≠ .sp b) → t.cia.sp = s.cia.sp) ∧
    ((∀ b, i ≠ .cnt b) → t.cia.cnt = s.cia.cnt)

/-- The alarm is written only by a store to a TOD register while `CRB[7]` is 1, or by `RESET` (10_state.md R45). -/
def Obligations.OnlyAlarmStoresWriteAlarm : Prop :=
  ∀ (i : Instr) (s t : State),
    i ≠ .reset → exec i s = .next t → t.cia.tod.alarm ≠ s.cia.tod.alarm →
      s.alarmMode = true ∧ ∃ (f : TodField) (v : Byte), i = .ofStore f.reg v

/-- A stopped timer keeps its count through every operation but `RESET` and the stores to its own latch and control
registers (41_timers.md R140). -/
def Obligations.StoppedTimerKeepsCount : Prop :=
  ∀ (i : Instr) (s t : State), i ≠ .reset → exec i s = .next t →
    (s.started .a = false → (∀ v, i ≠ .stTalo v ∧ i ≠ .stTahi v ∧ i ≠ .stCra v) →
      t.cia.ta.count = s.cia.ta.count) ∧
    (s.started .b = false → (∀ v, i ≠ .stTblo v ∧ i ≠ .stTbhi v ∧ i ≠ .stCrb v) →
      t.cia.tb.count = s.cia.tb.count)

/-- Two states that differ only in what no rule reads (the view registers' shadow bytes and the shifter's bits 15:9)
and in their traces answer every list of operations alike: the same events, the same returned byte, and states
that again differ only so. The record is complete, and what no rule reads is never observed (10_state.md R22,
R23, R51). -/
def Obligations.IndistinctRunsAgree : Prop :=
  ∀ (is : List Instr) (s t : State), s.indistinct t → ∃ s' t' es,
    execList is s = .next s' ∧ execList is t = .next t' ∧ s'.indistinct t' ∧
    (is ≠ [] → s'.ret = t'.ret) ∧ s'.trace = s.trace ++ es ∧ t'.trace = t.trace ++ es

/-! ## Peeks and loads -/

/-- All sixteen peeks: the byte, and nothing else changes (40_ports.md R122, R125, R128, R131; 41_timers.md R152, R155,
R158, R161, R164, R167; 42_tod.md R197, R200, R203, R206; 43_sdr.md R227; 44_icr.md R245). -/
def Obligations.PeeksReturnAndChangeNothing : Prop :=
  ∀ s : State,
    exec .pkPra s = .next { s with ret := some s.readA } ∧
    exec .pkPrb s = .next { s with ret := some s.readB } ∧
    exec .pkDdra s = .next { s with ret := some s.cia.regs.ddra } ∧
    exec .pkDdrb s = .next { s with ret := some s.cia.regs.ddrb } ∧
    exec .pkTalo s = .next { s with ret := some (s.cia.ta.count.extractLsb' 0 8) } ∧
    exec .pkTahi s = .next { s with ret := some (s.cia.ta.count.extractLsb' 8 8) } ∧
    exec .pkTblo s = .next { s with ret := some (s.cia.tb.count.extractLsb' 0 8) } ∧
    exec .pkTbhi s = .next { s with ret := some (s.cia.tb.count.extractLsb' 8 8) } ∧
    exec .pkTod10 s = .next { s with ret := some (if s.cia.tod.latched then s.cia.tod.snap.ten else s.cia.tod.clk.ten) } ∧
    exec .pkTodsec s = .next { s with ret := some (if s.cia.tod.latched then s.cia.tod.snap.sec else s.cia.tod.clk.sec) } ∧
    exec .pkTodmin s = .next { s with ret := some (if s.cia.tod.latched then s.cia.tod.snap.min else s.cia.tod.clk.min) } ∧
    exec .pkTodhr s = .next { s with ret := some (if s.cia.tod.latched then s.cia.tod.snap.hr else s.cia.tod.clk.hr) } ∧
    exec .pkSdr s = .next { s with ret := some s.cia.regs.sdr } ∧
    exec .pkIcr s = .next { s with ret := some (s.cia.icr.flags.extractLsb' 0 8) } ∧
    exec .pkCra s = .next { s with ret := some s.cia.regs.cra } ∧
    exec .pkCrb s = .next { s with ret := some s.cia.regs.crb }

/-- A peek returns the byte a load of the same register would return in the same state, and leaves the block, the trace
and everything but the returned byte unchanged (20_memory.md R87; the spec's decision D30). -/
def Obligations.PeekReturnsWhatLoadReturns : Prop :=
  ∀ (r : Reg) (s : State), ∃ (b : Byte) (t : State),
    exec (.ofPeek r) s = .next { s with ret := some b } ∧ exec (.ofLoad r) s = .next t ∧ t.ret = some b

/-- The loads of the storage registers return a byte and change nothing (40_ports.md R121, R124, R127, R130; 43_sdr.md
R226; 41_timers.md R163, R166). -/
def Obligations.StorageLoadsChangeNothing : Prop :=
  ∀ s : State,
    exec .ldPra s = .next { s with ret := some s.readA } ∧
    exec .ldPrb s = .next { s with ret := some s.readB } ∧
    exec .ldDdra s = .next { s with ret := some s.cia.regs.ddra } ∧
    exec .ldDdrb s = .next { s with ret := some s.cia.regs.ddrb } ∧
    exec .ldSdr s = .next { s with ret := some s.cia.regs.sdr } ∧
    exec .ldCra s = .next { s with ret := some s.cia.regs.cra } ∧
    exec .ldCrb s = .next { s with ret := some s.cia.regs.crb }

/-! ## Ports -/

/-- Bit by bit, what a port read returns and what a port presents: the data register on an output, the pin (or high) on
an input, and on port B the timer outputs on the pins PBON gives them, whatever the direction (40_ports.md R132,
R135, R136; the formulas are the spec's decisions D13 and D14). -/
def Obligations.PortBytesBitByBit : Prop :=
  ∀ (s : State) (i : Nat), i < 8 →
    s.readA.getLsbD i =
      (if s.cia.regs.ddra.getLsbD i then s.cia.regs.pra.getLsbD i else s.cia.extA.getLsbD i) ∧
    s.portAOut.getLsbD i = (if s.cia.regs.ddra.getLsbD i then s.cia.regs.pra.getLsbD i else true) ∧
    s.readB.getLsbD i =
      (if i = 6 ∧ s.cia.regs.cra.getLsbD 1 then (if s.cia.regs.cra.getLsbD 2 then s.cia.ta.tog else s.cia.ta.pulse)
      else if i = 7 ∧ s.cia.regs.crb.getLsbD 1 then
        (if s.cia.regs.crb.getLsbD 2 then s.cia.tb.tog else s.cia.tb.pulse)
      else if s.cia.regs.ddrb.getLsbD i then s.cia.regs.prb.getLsbD i else s.cia.extB.getLsbD i) ∧
    s.portBOut.getLsbD i =
      (if i = 6 ∧ s.cia.regs.cra.getLsbD 1 then (if s.cia.regs.cra.getLsbD 2 then s.cia.ta.tog else s.cia.ta.pulse)
      else if i = 7 ∧ s.cia.regs.crb.getLsbD 1 then
        (if s.cia.regs.crb.getLsbD 2 then s.cia.tb.tog else s.cia.tb.pulse)
      else if s.cia.regs.ddrb.getLsbD i then s.cia.regs.prb.getLsbD i else true)

/-- Stores to port A's two registers: the byte, and a `PortA` event exactly if the presented byte changed
(40_ports.md R120, R126). -/
def Obligations.PortAStores : Prop :=
  ∀ (v : Byte) (s : State),
    (exec (.stPra v) s = .next { s with
      cia.regs.pra := v, cia.oldPortA := v ||| ~~~s.cia.regs.ddra, ret := none
      trace := s.trace ++ if v ||| ~~~s.cia.regs.ddra = s.cia.oldPortA then []
        else [.portA (v ||| ~~~s.cia.regs.ddra)] }) ∧
    exec (.stDdra v) s = .next { s with
      cia.regs.ddra := v, cia.oldPortA := s.cia.regs.pra ||| ~~~v, ret := none
      trace := s.trace ++ if s.cia.regs.pra ||| ~~~v = s.cia.oldPortA then []
        else [.portA (s.cia.regs.pra ||| ~~~v)] }

/-- Stores to port B's two registers: the byte, and a `PortB` event exactly if the presented byte, timer outputs
included, changed (40_ports.md R123, R129). -/
def Obligations.PortBStores : Prop :=
  ∀ (v : Byte) (s : State),
    (∃ t, exec (.stPrb v) s = .next t ∧
      t = { s with
        cia.regs.prb := v, cia.oldPortB := t.portBOut, ret := none
        trace := s.trace ++ if t.portBOut = s.cia.oldPortB then [] else [.portB t.portBOut] }) ∧
    ∃ t, exec (.stDdrb v) s = .next t ∧
      t = { s with
        cia.regs.ddrb := v, cia.oldPortB := t.portBOut, ret := none
        trace := s.trace ++ if t.portBOut = s.cia.oldPortB then [] else [.portB t.portBOut] }

/-- The levels of the port pins and of the SP pin are recorded, enabled or not, and nothing else happens
(40_ports.md R133, R134; 43_sdr.md R228). -/
def Obligations.PinEventsRecordLevels : Prop :=
  ∀ (v : Byte) (b : Bool) (s : State),
    exec (.sp b) s = .next { s with cia.sp := b, ret := none } ∧
    exec (.pina v) s = .next { s with cia.extA := v, ret := none } ∧
    exec (.pinb v) s = .next { s with cia.extB := v, ret := none }

/-! ## Timers -/

/-- The loads of the timers' registers return the live count, not the latch, and keep the byte in the shadow
(41_timers.md R151, R154, R157, R160; that a load updates the shadow is decision D27). -/
def Obligations.TimerLoadsReturnCount : Prop :=
  ∀ s : State,
    exec .ldTalo s = .next { s with
      cia.regs.talo := s.cia.ta.count.extractLsb' 0 8, ret := some (s.cia.ta.count.extractLsb' 0 8) } ∧
    exec .ldTahi s = .next { s with
      cia.regs.tahi := s.cia.ta.count.extractLsb' 8 8, ret := some (s.cia.ta.count.extractLsb' 8 8) } ∧
    exec .ldTblo s = .next { s with
      cia.regs.tblo := s.cia.tb.count.extractLsb' 0 8, ret := some (s.cia.tb.count.extractLsb' 0 8) } ∧
    exec .ldTbhi s = .next { s with
      cia.regs.tbhi := s.cia.tb.count.extractLsb' 8 8, ret := some (s.cia.tb.count.extractLsb' 8 8) }

/-- The stores to the timers' registers change one byte of the latch, and copy the whole latch to the count exactly if the
timer is stopped (41_timers.md R147, R150, R153, R156, R159). -/
def Obligations.TimerStoresWriteLatch : Prop :=
  ∀ (v : Byte) (s : State),
    (exec (.stTalo v) s = .next { s with
      cia.regs.talo := v, cia.ta.latch := s.cia.ta.latch.extractLsb' 8 8 ++ v, ret := none
      cia.ta.count := if s.cia.regs.cra.getLsbD 0 then s.cia.ta.count else s.cia.ta.latch.extractLsb' 8 8 ++ v }) ∧
    (exec (.stTahi v) s = .next { s with
      cia.regs.tahi := v, cia.ta.latch := v ++ s.cia.ta.latch.extractLsb' 0 8, ret := none
      cia.ta.count := if s.cia.regs.cra.getLsbD 0 then s.cia.ta.count else v ++ s.cia.ta.latch.extractLsb' 0 8 }) ∧
    (exec (.stTblo v) s = .next { s with
      cia.regs.tblo := v, cia.tb.latch := s.cia.tb.latch.extractLsb' 8 8 ++ v, ret := none
      cia.tb.count := if s.cia.regs.crb.getLsbD 0 then s.cia.tb.count else s.cia.tb.latch.extractLsb' 8 8 ++ v }) ∧
    exec (.stTbhi v) s = .next { s with
      cia.regs.tbhi := v, cia.tb.latch := v ++ s.cia.tb.latch.extractLsb' 0 8, ret := none
      cia.tb.count := if s.cia.regs.crb.getLsbD 0 then s.cia.tb.count else v ++ s.cia.tb.latch.extractLsb' 0 8 }

/-- `ST.CRA v`: the byte without LOAD, the count loaded if LOAD is 1, the start-up delay armed from STOPPED to RUNNING and
cleared by START = 0, and nothing else but the serial port's mode and the port B event; the output flip-flops
stay (41_timers.md R162; the last clause is the spec's decision D13). -/
def Obligations.ControlAStore : Prop :=
  ∀ (v : Byte) (s : State), ∃ t,
    exec (.stCra v) s = .next t ∧
    t = { s with
      cia.regs.cra := v &&& 0xEF
      cia.ta.count := if v.getLsbD 4 then s.cia.ta.latch else s.cia.ta.count
      cia.ta.delay := if v.getLsbD 0 = false then 0
        else if s.cia.regs.cra.getLsbD 0 = false then startDelay s.cfg.model else s.cia.ta.delay
      cia.sdr := t.cia.sdr, cia.oldPortB := t.portBOut, ret := none
      trace := s.trace ++ if t.portBOut = s.cia.oldPortB then [] else [.portB t.portBOut] }

/-- What `ST.CRA` does to the serial port: output to input finishes a byte in flight or drops the queue, input to output
goes on with a force-finished byte or starts afresh, and no change of SPMODE changes nothing (43_sdr.md R224, the
spec's decision D21). -/
def Obligations.SerialModeSwitch : Prop :=
  ∀ (v : Byte) (s : State), ∃ t,
    exec (.stCra v) s = .next t ∧
    (s.cia.regs.cra.getLsbD 6 = v.getLsbD 6 → t.cia.sdr = s.cia.sdr) ∧
    (s.cia.regs.cra.getLsbD 6 = true → v.getLsbD 6 = false →
      t.cia.sdr = if s.cia.sdr.inflight then { s.cia.sdr with forceFinish := true }
        else { s.cia.sdr with valid := false, bits := 0, delay := 0 }) ∧
    (s.cia.regs.cra.getLsbD 6 = false → v.getLsbD 6 = true →
      t.cia.sdr = if s.cia.sdr.forceFinish then { s.cia.sdr with forceFinish := false }
        else { s.cia.sdr with shifter := 0, bits := 0, valid := false, inflight := false, delay := 0 })

/-- `ST.CRB v`: as `ST.CRA` for Timer B, with the Timer B bug's state: START = 0 clears it, a write-triggered restart marks
the cycle (41_timers.md R165, R146; the bug's reading is decision D9). -/
def Obligations.ControlBStore : Prop :=
  ∀ (v : Byte) (s : State), ∃ t,
    exec (.stCrb v) s = .next t ∧
    t = { s with
      cia.regs.crb := v &&& 0xEF
      cia.tb.count := if v.getLsbD 4 then s.cia.tb.latch else s.cia.tb.count
      cia.tb.delay := if v.getLsbD 0 = false then 0
        else if s.cia.regs.crb.getLsbD 0 = false then startDelay s.cfg.model else s.cia.tb.delay
      cia.tb.skip := if v.getLsbD 0 = false then 0 else s.cia.tb.skip
      cia.tbRestart := if v.getLsbD 0 = false then false
        else if s.cia.regs.crb.getLsbD 0 = false ∨ v.getLsbD 4 = true then true else s.cia.tbRestart
      cia.oldPortB := t.portBOut, ret := none
      trace := s.trace ++ if t.portBOut = s.cia.oldPortB then [] else [.portB t.portBOut] }

/-- `PHI2` on an enabled block, Timer A: counted exactly if it is started, past its start-up delay and in PHI2 mode; the
delay runs down; the pulse lasts one cycle (41_timers.md R142 to R144, R170). -/
def Obligations.ClockCycleTimerA : Prop :=
  ∀ s : State, s.cia.enabled = true → ∃ t,
    exec .phi2 s = .next t ∧ ticked s t .a s.phi2CountsA ∧
    t.cia.ta.pulse = (s.phi2CountsA && s.cia.ta.atEnd) ∧
    t.cia.ta.delay = if s.started .a then s.cia.ta.delay - 1 else s.cia.ta.delay

/-- `PHI2` on an enabled block, Timer B: the source its mode selects, Timer A's underflow in the same cycle included, less
the ticks lost to the Timer B bug (41_timers.md R141 to R146, R170; the bug is decision D9, mode 11 decision D11,
that A is served first decision D26). -/
def Obligations.ClockCycleTimerB : Prop :=
  ∀ s : State, s.cia.enabled = true → ∃ t,
    exec .phi2 s = .next t ∧
    let uA := s.phi2CountsA && s.cia.ta.atEnd
    let accepted := s.phi2AcceptsB uA
    let uB := s.underflowsB accepted uA
    ticked s t .b (accepted && s.skipAfterA uA == 0) ∧
    t.cia.tb.pulse = uB ∧ t.cia.tbRestart = false ∧
    (t.cia.tb.delay = if s.started .b then s.cia.tb.delay - 1 else s.cia.tb.delay) ∧
    t.cia.tb.skip = if accepted then s.skipAfterA uA - 1 else s.skipAfterA uA

/-- `PHI2` on an enabled block, the interrupt: TA, TB and SDR are latched as the timers underflow and a byte completes, TBB
if the bug's condition holds, and the line is asserted at most once (41_timers.md R170; 60_exceptions.md R287). -/
def Obligations.ClockCycleInterrupts : Prop :=
  ∀ s : State, s.cia.enabled = true → ∃ t,
    exec .phi2 s = .next t ∧
    let uA := s.phi2CountsA && s.cia.ta.atEnd
    let uB := s.underflowsB (s.phi2AcceptsB uA) uA
    sourcesFired s t (sourceBits uA uB false (s.completesOutput uA) false) (uA && s.cia.tbRestart)

/-- `PHI2` on an enabled block, the frame: only the timers, the serial port, the START bits, the flags, the line and the
outputs may change, and port B presents its byte, with an event exactly if it changed (41_timers.md R170). -/
def Obligations.ClockCycleFrame : Prop :=
  ∀ s : State, s.cia.enabled = true → ∃ t,
    exec .phi2 s = .next t ∧ clockFrame s.cia t.cia ∧ t.cia.regs.sdr = s.cia.regs.sdr ∧
    t.cia.cnt = s.cia.cnt ∧ t.cia.oldPortB = t.portBOut ∧
    portEvents t.trace = portEvents s.trace ++ (if t.portBOut = s.cia.oldPortB then [] else [.portB t.portBOut]) ∧
    t.cfg = s.cfg ∧ t.script = s.script ∧ t.ret = none

/-- A `CNT` that is no rising edge on an enabled block only records the level (41_timers.md R171). -/
def Obligations.CountPinRecordsLevel : Prop :=
  ∀ (level : Bool) (s : State),
    s.cia.enabled = false ∨ s.cia.cnt = true ∨ level = false →
      exec (.cnt level) s = .next { s with cia.cnt := level, ret := none }

/-- A rising edge of CNT on an enabled block, the timers: each is counted in the modes that take CNT or Timer A's
underflows, and not during its start-up delay, and no delay runs down (41_timers.md R171). -/
def Obligations.CountPinEdgeTimers : Prop :=
  ∀ s : State, s.cia.enabled = true → s.cia.cnt = false → ∃ t,
    exec (.cnt true) s = .next t ∧
    let uA := s.cntCountsA && s.cia.ta.atEnd
    let accepted := s.cntAcceptsB uA
    ticked s t .a s.cntCountsA ∧ ticked s t .b (accepted && s.skipAfterA uA == 0) ∧
    t.cia.ta.pulse = (s.cia.ta.pulse || uA) ∧
    t.cia.tb.pulse = (s.cia.tb.pulse || s.underflowsB accepted uA) ∧
    t.cia.ta.delay = s.cia.ta.delay ∧ t.cia.tb.delay = s.cia.tb.delay ∧
    (t.cia.tb.skip = if accepted then s.skipAfterA uA - 1 else s.skipAfterA uA) ∧
    t.cia.tbRestart = (s.cia.tbRestart && !uA)

/-- A rising edge of CNT on an enabled block, the rest: the level, the interrupts of both timers and of a completed byte
in or out, the frame, and port B's byte with its event (41_timers.md R171; 60_exceptions.md R287). -/
def Obligations.CountPinEdgeInterrupts : Prop :=
  ∀ s : State, s.cia.enabled = true → s.cia.cnt = false → ∃ t,
    exec (.cnt true) s = .next t ∧
    (let uA := s.cntCountsA && s.cia.ta.atEnd
    let uB := s.underflowsB (s.cntAcceptsB uA) uA
    let byteIn := s.serialIn && s.cia.sdr.bits == 7
    sourcesFired s t (sourceBits uA uB false (s.completesOutput uA || byteIn) false) (uA && s.cia.tbRestart)) ∧
    clockFrame s.cia t.cia ∧ t.cia.cnt = true ∧ t.cia.oldPortB = t.portBOut ∧
    portEvents t.trace = portEvents s.trace ++ (if t.portBOut = s.cia.oldPortB then [] else [.portB t.portBOut]) ∧
    t.cfg = s.cfg ∧ t.script = s.script ∧ t.ret = none

/-- A timer that counts `PHI2` from a count of `n` (1 to 65535) underflows on its `n`-th counted tick and not before
(41_timers.md R143 to R145): Timer A, and Timer B where the Timer B bug costs it no tick, whatever the other timer
does. -/
def Obligations.TimerUnderflowsOnNthTick : Prop :=
  (∀ (s : State) (n : Nat),
    s.cia.enabled = true → s.phi2CountsA = true → s.cia.ta.count.toNat = n → 0 < n →
    (∀ k, k < n → ∃ t, execList (List.replicate k .phi2) s = .next t ∧
      t.cia.ta.count.toNat = n - k ∧ t.cia.ta.tog = s.cia.ta.tog ∧ t.started .a = true) ∧
    ∃ t, execList (List.replicate n .phi2) s = .next t ∧
      t.cia.ta.count = s.cia.ta.latch ∧ t.cia.ta.tog = !s.cia.ta.tog ∧
      t.cia.icr.flags.getLsbD 0 = true ∧ t.started .a = !s.oneShot .a) ∧
  ∀ (s : State) (n : Nat),
    s.cia.enabled = true → s.inmodeB = 0#2 → s.phi2AcceptsB false = true →
    s.cia.tb.skip = 0 → s.cia.tbRestart = false → s.cia.tb.count.toNat = n → 0 < n →
    (∀ k, k < n → ∃ t, execList (List.replicate k .phi2) s = .next t ∧
      t.cia.tb.count.toNat = n - k ∧ t.cia.tb.tog = s.cia.tb.tog ∧ t.started .b = true) ∧
    ∃ t, execList (List.replicate n .phi2) s = .next t ∧
      t.cia.tb.count = s.cia.tb.latch ∧ t.cia.tb.tog = !s.cia.tb.tog ∧
      t.cia.icr.flags.getLsbD 1 = true ∧ t.started .b = !s.oneShot .b

/-! ## Time of day -/

/-- A store to a TOD register: the alarm while `CRB[7]` is 1, else the write-buffer during a hold, else the clock; a clock
store to hours stops the clock and clears the sub-tick counter, one to tenths starts it; the byte is stored raw
(42_tod.md R191, decisions D15 to D17; R195, R198, R201, R204). -/
def Obligations.TodStores : Prop :=
  ∀ (f : TodField) (v : Byte) (s : State), ∃ t,
    exec (.ofStore f.reg v) s = .next t ∧
    t = { s with cia.regs := s.cia.regs.set f.reg v, cia.tod := t.cia.tod, ret := none } ∧
    (s.cia.regs.crb.getLsbD 7 = true → t.cia.tod = { s.cia.tod with alarm := s.cia.tod.alarm.set f v }) ∧
    (s.cia.regs.crb.getLsbD 7 = false →
      t.cia.tod.alarm = s.cia.tod.alarm ∧ t.cia.tod.snap = s.cia.tod.snap ∧
      t.cia.tod.latched = s.cia.tod.latched ∧
      (t.cia.tod.stopped = if f = .hr then true else if f = .ten then false else s.cia.tod.stopped) ∧
      (t.cia.tod.ticks = if f = .hr then 0 else s.cia.tod.ticks) ∧
      (∀ g, t.cia.tod.wmask.getLsbD g.bit =
        if g = f then s.cia.tod.latched else s.cia.tod.wmask.getLsbD g.bit) ∧
      if s.cia.tod.latched then t.cia.tod.wbuf = s.cia.tod.wbuf.set f v ∧ t.cia.tod.clk = s.cia.tod.clk
      else t.cia.tod.clk = s.cia.tod.clk.set f v ∧ t.cia.tod.wbuf = s.cia.tod.wbuf)

/-- The loads of tenths, seconds and minutes return the snapshot during a hold, else the clock, and tenths release the
hold; the load of hours takes the snapshot of all four fields at once unless one is held, and starts the hold
(42_tod.md R196, R199, R202, R205; that a held snapshot is kept is decision D18, that a load updates the shadow decision D27). -/
def Obligations.TodLoads : Prop :=
  ∀ s : State,
    (let r := if s.cia.tod.latched then s.cia.tod.snap.ten else s.cia.tod.clk.ten
    exec .ldTod10 s = .next { s with cia.regs.tod10 := r, cia.tod.latched := false, ret := some r }) ∧
    (let r := if s.cia.tod.latched then s.cia.tod.snap.sec else s.cia.tod.clk.sec
    exec .ldTodsec s = .next { s with cia.regs.todsec := r, ret := some r }) ∧
    (let r := if s.cia.tod.latched then s.cia.tod.snap.min else s.cia.tod.clk.min
    exec .ldTodmin s = .next { s with cia.regs.todmin := r, ret := some r }) ∧
    let snap := if s.cia.tod.latched then s.cia.tod.snap else s.cia.tod.clk
    exec .ldTodhr s = .next { s with
      cia.regs.todhr := snap.hr, cia.tod.snap := snap, cia.tod.latched := true, ret := some snap.hr }

/-- During a hold, any list of operations without `LD.TOD10` and `RESET` keeps the hold and its snapshot, however far the
clock runs (42_tod.md R205, R211). -/
def Obligations.HoldSurvivesOtherOperations : Prop :=
  ∀ (is : List Instr) (s t : State),
    s.cia.tod.latched = true → (∀ i, i ∈ is → i ≠ .ldTod10 ∧ i ≠ .reset) → execList is s = .next t →
      t.cia.tod.latched = true ∧ t.cia.tod.snap = s.cia.tod.snap

/-- `TODTICK` on an enabled block: the write-buffer reaches the clock; a running clock counts the sub-tick, and at the
divisor it advances by a tenth and fires TOD exactly if it then equals the alarm (42_tod.md R210; decisions D17,
D19). -/
def Obligations.TodTickAdvancesClock : Prop :=
  ∀ s : State, s.cia.enabled = true → ∃ t,
    exec .todtick s = .next t ∧
    (let divisor := if s.cia.regs.cra.getLsbD 7 then 5 else 6
    let tenth := !s.cia.tod.stopped && decide (divisor ≤ s.cia.tod.ticks + 1)
    let clk := s.cia.tod.clk.commit s.cia.tod.wbuf s.cia.tod.wmask
    (t.cia.tod = { s.cia.tod with
      clk := if tenth then clk.increment else clk, wmask := 0
      ticks := if s.cia.tod.stopped then s.cia.tod.ticks else if tenth then 0 else s.cia.tod.ticks + 1 }) ∧
    sourcesFired s t (sourceBits false false (tenth && clk.increment == s.cia.tod.alarm) false false) false) ∧
    t = { s with
      cia.tod := t.cia.tod, cia.icr.flags := t.cia.icr.flags, cia.irqOut := t.cia.irqOut
      trace := s.trace ++ (if t.cia.icr.ir ∧ s.cia.icr.ir = false then
        [.irqLine s.cfg.irqLine s.cfg.ctxId true] else []), ret := none }

/-- The four-field increment refines a count of tenths of a second modulo one day: from a legal time it gives the legal
time one tenth later, through every BCD carry, the 12-hour rollover and the AM/PM flip (42_tod.md R193, R194,
decision D15). -/
def Obligations.IncrementAddsOneTenth : Prop :=
  ∀ t : TodTime, t.legal = true →
    t.increment.legal = true ∧ t.increment.tenths = (t.tenths + 1) % 864000

/-! ## Serial port -/

/-- `ST.SDR v`: the byte, and in output mode the queue, deferred by `SDR_DELAY` if a byte is in flight (43_sdr.md R225,
decision D10). -/
def Obligations.SerialDataStore : Prop :=
  ∀ (v : Byte) (s : State),
    exec (.stSdr v) s = .next { s with
      cia.regs.sdr := v
      cia.sdr.valid := s.cia.sdr.valid || s.cia.regs.cra.getLsbD 6
      cia.sdr.delay := if s.cia.regs.cra.getLsbD 6 then
        (if s.cia.sdr.inflight then s.cfg.sdrDelay else 0) else s.cia.sdr.delay
      ret := none }

/-- `SETSDR v`: in input mode on an enabled block, not force-finishing, the byte is received and SDR fires; otherwise
nothing happens (43_sdr.md R229, decision D22). -/
def Obligations.HostSerialByte : Prop :=
  ∀ (v : Byte) (s : State), ∃ t,
    exec (.setsdr v) s = .next t ∧
    let takes := s.cia.enabled && !s.cia.regs.cra.getLsbD 6 && !s.cia.sdr.forceFinish
    (takes = false → t = { s with ret := none }) ∧
    (takes = true →
      sourcesFired s t (sourceBits false false false true false) false ∧
      t = { s with
        cia.regs.sdr := v, cia.sdr.bits := 0, cia.icr.flags := t.cia.icr.flags, cia.irqOut := t.cia.irqOut
        trace := s.trace ++ (if t.cia.icr.ir ∧ s.cia.icr.ir = false then
          [.irqLine s.cfg.irqLine s.cfg.ctxId true] else []), ret := none })

/-- One shift event drives CNT low, then the data bit, then CNT high, each event only on a change (43_sdr.md R221,
R222; the shape of the pulse is decision D20). -/
def Obligations.ShiftEventDrivesPins : Prop :=
  ∀ (s : State) (b : Bool),
    drivePins s b = { s with
      cia.spOut := b, cia.cntOut := true
      trace := s.trace ++ ((if s.cia.cntOut then [.countPin false] else []) ++
        (if b = s.cia.spOut then [] else [.serialPin b]) ++ [.countPin true]) }

/-- A `PHI2` or a rising edge of CNT in which Timer A underflows while a byte is in flight in output mode or under
force-finish shifts one bit: CNT falls, bit 7 of the byte in the shifter reaches SP, CNT rises; before the eighth
the byte goes on, and at the eighth the counter is cleared and the next byte is loaded exactly if one is ready and
the byte was not force-finished (43_sdr.md R222). That a force-finished byte which completes on an edge of CNT is
followed by the shift-in of that edge is the model's reading of the order in 41_timers.md R171 (log entry 12). -/
def Obligations.UnderflowShiftsBitOut : Prop :=
  ∀ (s : State) (i : Instr),
    s.cia.enabled = true → s.underflowsA i = true → s.serialIn = false → s.cia.sdr.inflight = true → ∃ t,
      exec i s = .next t ∧
      t.cia.spOut = s.cia.sdr.shifter.getLsbD 7 ∧ t.cia.cntOut = true ∧ t.cia.regs.sdr = s.cia.regs.sdr ∧
      serialEvents t.trace = serialEvents s.trace ++ s.cia.shiftEvents (s.cia.sdr.shifter.getLsbD 7) ∧
      (s.cia.sdr.bits ≠ 7 → t.cia.sdr = { s.cia.sdr with
        shifter := s.cia.sdr.shifter <<< 1, bits := s.cia.sdr.bits + 1, delay := s.sdrDelayIn i }) ∧
      (s.cia.sdr.bits = 7 → t.cia.sdr =
        if s.cia.sdr.forceFinish then
          let sh := s.cia.sdr.shifter <<< 1
          { shifter := if i = .phi2 ∨ s.serialOut then sh else sh.extractLsb' 0 15 ++ BitVec.ofBool s.cia.sp
            bits := if i = .phi2 ∨ s.serialOut then 0 else 1
            valid := false, inflight := false, forceFinish := false, delay := 0 }
        else if s.cia.sdr.valid = true ∧ s.sdrDelayIn i = 0 then
          { shifter := s.cia.regs.sdr.setWidth 16, bits := 0, valid := false, inflight := true,
            forceFinish := false, delay := 0 }
        else
          { s.cia.sdr with
            shifter := s.cia.sdr.shifter <<< 1, bits := 0, inflight := false, delay := s.sdrDelayIn i })

/-- Timer A underflows with no byte in flight and one ready, in output mode or under force-finish: the byte is loaded and
its bit 7 shifted in the same operation, between CNT low and CNT high (43_sdr.md R222). -/
def Obligations.UnderflowStartsQueuedByte : Prop :=
  ∀ (s : State) (i : Instr),
    s.cia.enabled = true → s.underflowsA i = true → s.serialIn = false → s.cia.sdr.inflight = false →
    s.cia.sdr.valid = true → s.sdrDelayIn i = 0 → ∃ t,
      exec i s = .next t ∧
      t.cia.spOut = s.cia.regs.sdr.getLsbD 7 ∧ t.cia.cntOut = true ∧ t.cia.regs.sdr = s.cia.regs.sdr ∧
      serialEvents t.trace = serialEvents s.trace ++ s.cia.shiftEvents (s.cia.regs.sdr.getLsbD 7) ∧
      t.cia.sdr = { s.cia.sdr with
        shifter := s.cia.regs.sdr.setWidth 16 <<< 1, bits := 1, valid := false, inflight := true, delay := 0 }

/-- The serial port stands still, but for the deferral that `PHI2` counts down, where Timer A does not underflow, in input
mode, and where no byte is in flight and none is ready, and no pin event is emitted (43_sdr.md R222; 41_timers.md
R170). -/
def Obligations.SerialPortStandsStill : Prop :=
  ∀ (s : State) (i : Instr),
    s.cia.enabled = true → (i = .phi2 ∨ i = .cnt true ∧ s.serialIn = false) →
    (s.underflowsA i = false ∨ s.serialIn = true ∨
      s.cia.sdr.inflight = false ∧ (s.cia.sdr.valid = false ∨ s.sdrDelayIn i ≠ 0)) → ∃ t,
      exec i s = .next t ∧ t.cia.sdr = { s.cia.sdr with delay := s.sdrDelayIn i } ∧
      t.cia.spOut = s.cia.spOut ∧ t.cia.cntOut = s.cia.cntOut ∧ t.cia.regs.sdr = s.cia.regs.sdr ∧
      serialEvents t.trace = serialEvents s.trace

/-- A byte loaded into the shifter leaves most significant bit first: after its `k`-th shift event, `k` = 1 to 8, SP shows
bit `8-k` of it (43_sdr.md R222; the bit order is decision D20). -/
def Obligations.ByteLeavesMsbFirst : Prop :=
  ∀ (s : State) (k : Nat), 1 ≤ k → k ≤ 8 →
    (shiftOut^[k] (loadShifter s)).cia.spOut = s.cia.regs.sdr.getLsbD (8 - k)

/-- A rising edge of CNT in input mode shifts the SP level in; the eighth bit puts the byte into `SDR`, which keeps its
old byte until then, and the pins are not driven: no event of theirs is emitted (43_sdr.md R223). -/
def Obligations.CountPinEdgeShiftsIn : Prop :=
  ∀ s : State, s.cia.enabled = true → s.cia.cnt = false → s.serialIn = true → ∃ t,
    exec (.cnt true) s = .next t ∧
    t.cia.sdr = { s.cia.sdr with
      shifter := s.cia.sdr.shifter.extractLsb' 0 15 ++ BitVec.ofBool s.cia.sp
      bits := if s.cia.sdr.bits = 7 then 0 else s.cia.sdr.bits + 1 } ∧
    t.cia.regs.sdr = (if s.cia.sdr.bits = 7 then s.cia.sdr.shifter.extractLsb' 0 7 ++ BitVec.ofBool s.cia.sp
      else s.cia.regs.sdr) ∧
    t.cia.spOut = s.cia.spOut ∧ t.cia.cntOut = s.cia.cntOut ∧ serialEvents t.trace = serialEvents s.trace

/-- On an enabled block in input mode with no bit received yet, `n` (up to 8) rounds of `SP b`, `CNT 0`, `CNT 1`, the bits
`b` being those of `d` from bit 7 down, leave `SDR` alone before the eighth round and put `d` into it at the eighth,
whatever the timers do in between (43_sdr.md R223, R228; 41_timers.md R171). -/
def Obligations.ByteArrivesMsbFirst : Prop :=
  ∀ (s : State) (d : Byte) (n : Nat),
    s.cia.enabled = true → s.serialIn = true → s.cia.sdr.bits = 0 → n ≤ 8 → ∃ t,
      execList ((List.range n).flatMap fun k => [.sp (d.getLsbD (7 - k)), .cnt false, .cnt true]) s = .next t ∧
      t.cia.regs.sdr = if n = 8 then d else s.cia.regs.sdr

/-! ## Interrupts -/

/-- `ST.ICR v`: bit 7 sets or clears each mask bit whose command bit is 1, bits 6:5 are ignored, and a flag already
pending may assert the line, which clearing a mask bit never releases (44_icr.md R243, decision D23). -/
def Obligations.MaskStoreSetsOrClears : Prop :=
  ∀ (v : Byte) (s : State), ∃ t,
    exec (.stIcr v) s = .next t ∧
    (∀ i, i < 5 → t.cia.icr.mask.getLsbD i = if v.getLsbD i then v.getLsbD 7 else s.cia.icr.mask.getLsbD i) ∧
    let asserts := s.cia.icr.sources &&& t.cia.icr.mask ≠ 0#5 ∧ s.cia.icr.flags.getLsbD 7 = false
    t = { s with
      cia.regs.icr := v, cia.icr.mask := t.cia.icr.mask, ret := none
      cia.icr.flags := if asserts then s.cia.icr.flags ||| 0x080#9 else s.cia.icr.flags
      cia.irqOut := if asserts then true else s.cia.irqOut
      trace := s.trace ++ if asserts then [.irqLine s.cfg.irqLine s.cfg.ctxId true] else [] }

/-- `LD.ICR` returns the flags, clears all nine, releases the line if this chip raised it, and leaves the mask; a second
one returns `$00` and emits nothing (44_icr.md R244, R247; clearing TBB is decision D23). -/
def Obligations.AcknowledgeClearsAndReleases : Prop :=
  ∀ s : State, ∃ t,
    exec .ldIcr s = .next t ∧
    (t = { s with
      cia.regs.icr := s.cia.icr.flags.extractLsb' 0 8, cia.icr.flags := 0, cia.irqOut := false
      ret := some (s.cia.icr.flags.extractLsb' 0 8)
      trace := s.trace ++
        if s.cia.irqOut then [.irqLine s.cfg.irqLine s.cfg.ctxId false] else [] }) ∧
    exec .ldIcr t = .next { t with cia.regs.icr := 0x00, ret := some 0x00 }

/-- `FLAG` on an enabled block latches FLG whatever the mask, and sets IR and asserts the line if FLG is enabled, or another
pending source is, and IR is not set (44_icr.md R246, R241, R242; the event's tags are decision D32). -/
def Obligations.FlagEdgeLatchesFlg : Prop :=
  ∀ s : State, s.cia.enabled = true → ∃ t,
    exec .flag s = .next t ∧ sourcesFired s t (sourceBits false false false false true) false ∧
    t = { s with
      cia.icr.flags := t.cia.icr.flags, cia.irqOut := t.cia.irqOut
      trace := s.trace ++ (if t.cia.icr.ir ∧ s.cia.icr.ir = false then
        [.irqLine s.cfg.irqLine s.cfg.ctxId true] else []), ret := none }
end

