-- ==== Sys2Proof/Laws/State.lean ====
section
/-! SUPPORT. One lemma for each field under each named update of the state, true by rfl, and the laws of the
register shadow, the TOD fields and one bit of a byte. -/

namespace Sys2Proof.Machine

/-! ## The state under `setReg`, `emit`, `answer`, `silent` -/

@[simp] theorem State.setReg_regs (s : State) (r : Reg) (v : Byte) : (s.setReg r v).cia.regs = s.cia.regs.set r v := rfl
@[simp] theorem State.setReg_ta (s : State) (r : Reg) (v : Byte) : (s.setReg r v).cia.ta = s.cia.ta := rfl
@[simp] theorem State.setReg_tb (s : State) (r : Reg) (v : Byte) : (s.setReg r v).cia.tb = s.cia.tb := rfl
@[simp] theorem State.setReg_tbRestart (s : State) (r : Reg) (v : Byte) : (s.setReg r v).cia.tbRestart = s.cia.tbRestart := rfl
@[simp] theorem State.setReg_tod (s : State) (r : Reg) (v : Byte) : (s.setReg r v).cia.tod = s.cia.tod := rfl
@[simp] theorem State.setReg_sdr (s : State) (r : Reg) (v : Byte) : (s.setReg r v).cia.sdr = s.cia.sdr := rfl
@[simp] theorem State.setReg_icr (s : State) (r : Reg) (v : Byte) : (s.setReg r v).cia.icr = s.cia.icr := rfl
@[simp] theorem State.setReg_enabled (s : State) (r : Reg) (v : Byte) : (s.setReg r v).cia.enabled = s.cia.enabled := rfl
@[simp] theorem State.setReg_irqOut (s : State) (r : Reg) (v : Byte) : (s.setReg r v).cia.irqOut = s.cia.irqOut := rfl
@[simp] theorem State.setReg_oldPortA (s : State) (r : Reg) (v : Byte) : (s.setReg r v).cia.oldPortA = s.cia.oldPortA := rfl
@[simp] theorem State.setReg_oldPortB (s : State) (r : Reg) (v : Byte) : (s.setReg r v).cia.oldPortB = s.cia.oldPortB := rfl
@[simp] theorem State.setReg_extA (s : State) (r : Reg) (v : Byte) : (s.setReg r v).cia.extA = s.cia.extA := rfl
@[simp] theorem State.setReg_extB (s : State) (r : Reg) (v : Byte) : (s.setReg r v).cia.extB = s.cia.extB := rfl
@[simp] theorem State.setReg_cnt (s : State) (r : Reg) (v : Byte) : (s.setReg r v).cia.cnt = s.cia.cnt := rfl
@[simp] theorem State.setReg_sp (s : State) (r : Reg) (v : Byte) : (s.setReg r v).cia.sp = s.cia.sp := rfl
@[simp] theorem State.setReg_spOut (s : State) (r : Reg) (v : Byte) : (s.setReg r v).cia.spOut = s.cia.spOut := rfl
@[simp] theorem State.setReg_cntOut (s : State) (r : Reg) (v : Byte) : (s.setReg r v).cia.cntOut = s.cia.cntOut := rfl
@[simp] theorem State.setReg_cfg (s : State) (r : Reg) (v : Byte) : (s.setReg r v).cfg = s.cfg := rfl
@[simp] theorem State.setReg_script (s : State) (r : Reg) (v : Byte) : (s.setReg r v).script = s.script := rfl
@[simp] theorem State.setReg_trace (s : State) (r : Reg) (v : Byte) : (s.setReg r v).trace = s.trace := rfl
@[simp] theorem State.setReg_ret (s : State) (r : Reg) (v : Byte) : (s.setReg r v).ret = s.ret := rfl

@[simp] theorem State.emit_cia (s : State) (e : OutEvent) : (s.emit e).cia = s.cia := rfl
@[simp] theorem State.emit_cfg (s : State) (e : OutEvent) : (s.emit e).cfg = s.cfg := rfl
@[simp] theorem State.emit_script (s : State) (e : OutEvent) : (s.emit e).script = s.script := rfl
@[simp] theorem State.emit_trace (s : State) (e : OutEvent) : (s.emit e).trace = s.trace ++ [e] := rfl
@[simp] theorem State.emit_ret (s : State) (e : OutEvent) : (s.emit e).ret = s.ret := rfl

@[simp] theorem State.answer_cia (s : State) (v : Byte) : (s.answer v).cia = s.cia := rfl
@[simp] theorem State.answer_cfg (s : State) (v : Byte) : (s.answer v).cfg = s.cfg := rfl
@[simp] theorem State.answer_script (s : State) (v : Byte) : (s.answer v).script = s.script := rfl
@[simp] theorem State.answer_trace (s : State) (v : Byte) : (s.answer v).trace = s.trace := rfl
@[simp] theorem State.answer_ret (s : State) (v : Byte) : (s.answer v).ret = some v := rfl

@[simp] theorem State.silent_cia (s : State) : (s.silent).cia = s.cia := rfl
@[simp] theorem State.silent_cfg (s : State) : (s.silent).cfg = s.cfg := rfl
@[simp] theorem State.silent_script (s : State) : (s.silent).script = s.script := rfl
@[simp] theorem State.silent_trace (s : State) : (s.silent).trace = s.trace := rfl
@[simp] theorem State.silent_ret (s : State) : (s.silent).ret = none := rfl

/-! ## The two timers under `setTimer` -/

@[simp] theorem State.setTimer_a_ta (s : State) (x : Timer) : (s.setTimer .a x).cia.ta = x := rfl
@[simp] theorem State.setTimer_a_tb (s : State) (x : Timer) : (s.setTimer .a x).cia.tb = s.cia.tb := rfl
@[simp] theorem State.setTimer_b_ta (s : State) (x : Timer) : (s.setTimer .b x).cia.ta = s.cia.ta := rfl
@[simp] theorem State.setTimer_b_tb (s : State) (x : Timer) :
    (s.setTimer .b x).cia.tb.toTimer = x := rfl
@[simp] theorem State.setTimer_b_skip (s : State) (x : Timer) :
    (s.setTimer .b x).cia.tb.skip = s.cia.tb.skip := rfl
@[simp] theorem State.timer_a (s : State) : s.timer .a = s.cia.ta := rfl
@[simp] theorem State.timer_b (s : State) : s.timer .b = s.cia.tb.toTimer := rfl
@[simp] theorem State.setTimer_regs (s : State) (t : TimerId) (x : Timer) :
    (s.setTimer t x).cia.regs = s.cia.regs := by cases t <;> rfl
@[simp] theorem State.setTimer_tbRestart (s : State) (t : TimerId) (x : Timer) :
    (s.setTimer t x).cia.tbRestart = s.cia.tbRestart := by cases t <;> rfl
@[simp] theorem State.setTimer_tod (s : State) (t : TimerId) (x : Timer) :
    (s.setTimer t x).cia.tod = s.cia.tod := by cases t <;> rfl
@[simp] theorem State.setTimer_sdr (s : State) (t : TimerId) (x : Timer) :
    (s.setTimer t x).cia.sdr = s.cia.sdr := by cases t <;> rfl
@[simp] theorem State.setTimer_icr (s : State) (t : TimerId) (x : Timer) :
    (s.setTimer t x).cia.icr = s.cia.icr := by cases t <;> rfl
@[simp] theorem State.setTimer_enabled (s : State) (t : TimerId) (x : Timer) :
    (s.setTimer t x).cia.enabled = s.cia.enabled := by cases t <;> rfl
@[simp] theorem State.setTimer_irqOut (s : State) (t : TimerId) (x : Timer) :
    (s.setTimer t x).cia.irqOut = s.cia.irqOut := by cases t <;> rfl
@[simp] theorem State.setTimer_oldPortA (s : State) (t : TimerId) (x : Timer) :
    (s.setTimer t x).cia.oldPortA = s.cia.oldPortA := by cases t <;> rfl
@[simp] theorem State.setTimer_oldPortB (s : State) (t : TimerId) (x : Timer) :
    (s.setTimer t x).cia.oldPortB = s.cia.oldPortB := by cases t <;> rfl
@[simp] theorem State.setTimer_extA (s : State) (t : TimerId) (x : Timer) :
    (s.setTimer t x).cia.extA = s.cia.extA := by cases t <;> rfl
@[simp] theorem State.setTimer_extB (s : State) (t : TimerId) (x : Timer) :
    (s.setTimer t x).cia.extB = s.cia.extB := by cases t <;> rfl
@[simp] theorem State.setTimer_cnt (s : State) (t : TimerId) (x : Timer) :
    (s.setTimer t x).cia.cnt = s.cia.cnt := by cases t <;> rfl
@[simp] theorem State.setTimer_sp (s : State) (t : TimerId) (x : Timer) :
    (s.setTimer t x).cia.sp = s.cia.sp := by cases t <;> rfl
@[simp] theorem State.setTimer_spOut (s : State) (t : TimerId) (x : Timer) :
    (s.setTimer t x).cia.spOut = s.cia.spOut := by cases t <;> rfl
@[simp] theorem State.setTimer_cntOut (s : State) (t : TimerId) (x : Timer) :
    (s.setTimer t x).cia.cntOut = s.cia.cntOut := by cases t <;> rfl
@[simp] theorem State.setTimer_cfg (s : State) (t : TimerId) (x : Timer) :
    (s.setTimer t x).cfg = s.cfg := by cases t <;> rfl
@[simp] theorem State.setTimer_script (s : State) (t : TimerId) (x : Timer) :
    (s.setTimer t x).script = s.script := by cases t <;> rfl
@[simp] theorem State.setTimer_trace (s : State) (t : TimerId) (x : Timer) :
    (s.setTimer t x).trace = s.trace := by cases t <;> rfl
@[simp] theorem State.setTimer_ret (s : State) (t : TimerId) (x : Timer) :
    (s.setTimer t x).ret = s.ret := by cases t <;> rfl

/-! ## The register shadow -/

@[simp] theorem Regs.get_set_self (f : Regs) (r : Reg) (v : Byte) : (f.set r v).get r = v := by cases r <;> rfl

theorem Regs.get_set_ne (f : Regs) {r q : Reg} (v : Byte) (h : q ≠ r) : (f.set r v).get q = f.get q := by
  cases r <;> cases q <;> first | rfl | exact absurd rfl h

/-- Two shadows that read alike at every register are equal. -/
theorem Regs.ext_get {f g : Regs} (h : ∀ r, f.get r = g.get r) : f = g := by
  have h0 := h .pra; have h1 := h .prb; have h2 := h .ddra; have h3 := h .ddrb
  have h4 := h .talo; have h5 := h .tahi; have h6 := h .tblo; have h7 := h .tbhi
  have h8 := h .tod10; have h9 := h .todsec; have h10 := h .todmin; have h11 := h .todhr
  have h12 := h .sdr; have h13 := h .icr; have h14 := h .cra; have h15 := h .crb
  cases f; cases g; simp_all [Regs.get]

@[simp] theorem State.reg_setReg_self (s : State) (r : Reg) (v : Byte) : (s.setReg r v).reg r = v := by
  simp [State.reg]

theorem State.reg_setReg_ne (s : State) {r q : Reg} (v : Byte) (h : q ≠ r) :
    (s.setReg r v).reg q = s.reg q := by
  simp [State.reg, Regs.get_set_ne _ _ h]

@[simp] theorem State.reg_emit (s : State) (e : OutEvent) (r : Reg) : (s.emit e).reg r = s.reg r := rfl
@[simp] theorem State.reg_answer (s : State) (v : Byte) (r : Reg) : (s.answer v).reg r = s.reg r := rfl
@[simp] theorem State.reg_silent (s : State) (r : Reg) : s.silent.reg r = s.reg r := rfl
@[simp] theorem State.reg_setTimer (s : State) (t : TimerId) (x : Timer) (r : Reg) :
    (s.setTimer t x).reg r = s.reg r := by cases t <;> rfl

/-! ## TOD fields -/

@[simp] theorem TodTime.get_set_self (t : TodTime) (f : TodField) (v : Byte) : (t.set f v).get f = v := by
  cases f <;> rfl

theorem TodTime.get_set_ne (t : TodTime) {f g : TodField} (v : Byte) (h : g ≠ f) :
    (t.set f v).get g = t.get g := by
  cases f <;> cases g <;> first | rfl | exact absurd rfl h

theorem TodField.reg_injective {f g : TodField} (h : f.reg = g.reg) : f = g := by
  cases f <;> cases g <;> first | rfl | cases h

/-! ## One bit of a byte -/

theorem putBit_getLsbD (v : Byte) (i j : Nat) (b : Bool) (hi : i < 8) (hj : j < 8) :
    (putBit v i b).getLsbD j = if j = i then b else v.getLsbD j := by
  have key : ∀ i j : Fin 8, ∀ b : Bool, ∀ v : Byte,
      (putBit v i b).getLsbD j = if (j : Nat) = i then b else v.getLsbD j := by
    intro i j b v
    cases b <;> fin_cases i <;> fin_cases j <;> simp [putBit]
  exact key ⟨i, hi⟩ ⟨j, hj⟩ b v

end Sys2Proof.Machine
end

