-- ==== Sys2Proof/Laws/Ops.lean ====
section
/-! SUPPORT. One law for each shared operation of Ops.lean and Flags.lean, saying everything it does as one record
update, so that a proof cites it and never unfolds the operation. -/

namespace Sys2Proof.Machine

/-! ## Ports -/

theorem updatePortA_eq (s : State) :
    updatePortA s =
      { s with
        cia.oldPortA := s.portAOut
        trace := s.trace ++ if s.portAOut = s.cia.oldPortA then [] else [.portA s.portAOut] } := by
  unfold updatePortA
  split
  · next h => simp [h]
  · simp [State.emit]

theorem updatePortB_eq (s : State) :
    updatePortB s =
      { s with
        cia.oldPortB := s.portBOut
        trace := s.trace ++ if s.portBOut = s.cia.oldPortB then [] else [.portB s.portBOut] } := by
  unfold updatePortB
  split
  · next h => simp [h]
  · simp [State.emit]

/-- A bit of a port B byte: the timer's output where PBON takes the pin, else the byte's own (40_ports.md R132). -/
theorem overlayTimers_getLsbD (s : State) (v : Byte) (i : Nat) (hi : i < 8) :
    (s.overlayTimers v).getLsbD i =
      if i = 6 ∧ s.pbOn .a then s.timerOut .a
      else if i = 7 ∧ s.pbOn .b then s.timerOut .b else v.getLsbD i := by
  unfold State.overlayTimers
  by_cases ha : s.pbOn .a <;> by_cases hb : s.pbOn .b <;>
    simp only [ha, hb, if_true, if_false, and_true, and_false, Bool.false_eq_true,
      putBit_getLsbD _ _ _ _ (by decide : 6 < 8) hi, putBit_getLsbD _ _ _ _ (by decide : 7 < 8) hi]
  split <;> split <;> first | rfl | omega

/-! ## The serial pins -/

theorem emitSp_eq (s : State) (b : Bool) :
    emitSp s b =
      { s with
        cia.spOut := b, trace := s.trace ++ if b = s.cia.spOut then [] else [.serialPin b] } := by
  unfold emitSp
  split
  · next h => subst h; simp
  · simp [State.emit]

theorem emitCnt_eq (s : State) (b : Bool) :
    emitCnt s b =
      { s with
        cia.cntOut := b, trace := s.trace ++ if b = s.cia.cntOut then [] else [.countPin b] } := by
  unfold emitCnt
  split
  · next h => subst h; simp
  · simp [State.emit]

/-! ## The interrupt line -/

theorem assertIrq_eq (s : State) :
    assertIrq s =
      { s with
        cia.icr.flags := s.cia.icr.flags ||| 0x080#9, cia.irqOut := true
        trace := s.trace ++ [.irqLine s.cfg.irqLine s.cfg.ctxId true] } := rfl

theorem releaseIrq_eq (s : State) :
    releaseIrq s =
      { s with
        cia.icr.flags := 0, cia.irqOut := false
        trace := s.trace ++
          if s.cia.irqOut then [.irqLine s.cfg.irqLine s.cfg.ctxId false] else [] } := by
  unfold releaseIrq
  split
  · next h => simp [State.emitIrq, State.emit]
  · next h =>
    obtain ⟨c, cfg, script, trace, ret⟩ := s
    obtain ⟨⟩ := c
    simp_all

/-- `Evaluate()` asserts: an enabled source is pending and IR is clear (44_icr.md R242). -/
def State.asserts (s : State) : Bool := s.cia.icr.wantsIrq && !s.cia.icr.ir

theorem evaluateIrq_eq (s : State) :
    evaluateIrq s =
      { s with
        cia.icr.flags := if s.asserts then s.cia.icr.flags ||| 0x080#9 else s.cia.icr.flags
        cia.irqOut := if s.asserts then true else s.cia.irqOut
        trace := s.trace ++
          if s.asserts then [.irqLine s.cfg.irqLine s.cfg.ctxId true] else [] } := by
  by_cases h : s.asserts = true
  · simp only [evaluateIrq, State.asserts] at h ⊢; simp [h, assertIrq_eq]
  · have h' : s.asserts = false := by simpa using h
    simp only [evaluateIrq, State.asserts] at h' ⊢; simp [h']

/-- `RaiseSource` asserts the line. -/
def Icr.raises (c : Icr) (src : Source) : Bool :=
  Icr.wantsIrq { c with flags := c.flags ||| src.bit } && !Icr.ir { c with flags := c.flags ||| src.bit }

/-- What `RaiseSource` leaves in the flags: the source, and IR where that makes an enabled source pending. -/
def Icr.raised (c : Icr) (src : Source) : BitVec 9 :=
  if c.raises src then c.flags ||| src.bit ||| 0x080#9 else c.flags ||| src.bit

theorem raiseSource_eq (s : State) (src : Source) :
    raiseSource src s =
      { s with
        cia.icr.flags := s.cia.icr.raised src
        cia.irqOut := if s.cia.icr.raises src then true else s.cia.irqOut
        trace := s.trace ++
          if s.cia.icr.raises src then [.irqLine s.cfg.irqLine s.cfg.ctxId true] else [] } := by
  rw [raiseSource, evaluateIrq_eq]
  rfl

/-- IR is not touched by latching a source: source bits lie below it. -/
theorem Icr.ir_or_source (c : Icr) (src : Source) :
    Icr.ir { c with flags := c.flags ||| src.bit } = c.ir := by
  cases src <;> simp [Icr.ir, Source.bit]

end Sys2Proof.Machine
end

