-- ==== Sys2Proof/Laws/Fired.lean ====
section
/-! SUPPORT. The relation `sourcesFired` over each shared operation, and how it composes: what several operations in a
row do to the flags and the line is what their sources together do (60_exceptions.md R287). -/

namespace Sys2Proof.Machine

/-! ## Traces -/

@[simp] theorem irqEvents_append (es fs : List OutEvent) : irqEvents (es ++ fs) = irqEvents es ++ irqEvents fs := by
  simp [irqEvents]

@[simp] theorem irqEvents_nil : irqEvents [] = [] := rfl

@[simp] theorem serialEvents_append (es fs : List OutEvent) :
    serialEvents (es ++ fs) = serialEvents es ++ serialEvents fs := by
  simp [serialEvents]

@[simp] theorem serialEvents_nil : serialEvents [] = [] := rfl

@[simp] theorem portEvents_append (es fs : List OutEvent) :
    portEvents (es ++ fs) = portEvents es ++ portEvents fs := by
  simp [portEvents]

@[simp] theorem portEvents_nil : portEvents [] = [] := rfl

/-- `RaiseSource` emits no event of a pin or a port. -/
theorem raiseSource_pinEvents (s : State) (src : Source) :
    serialEvents (raiseSource src s).trace = serialEvents s.trace ∧
    portEvents (raiseSource src s).trace = portEvents s.trace := by
  rw [raiseSource_eq]
  cases h : s.cia.icr.raises src <;> simp [serialEvents, portEvents]

/-! ## Flags -/

/-- The source's place in flag bits 4:0. -/
def Source.place (src : Source) : BitVec 5 := src.bit.extractLsb' 0 5

theorem Icr.sources_or (m : BitVec 5) (f : BitVec 9) (src : Source) :
    Icr.sources { mask := m, flags := f ||| src.bit } = Icr.sources { mask := m, flags := f } ||| src.place := by
  simp only [Icr.sources, Source.place, BitVec.extractLsb'_or]

/-- What `RaiseSource` leaves in the flags, field by field. -/
theorem Icr.raised_fields (c : Icr) (src : Source) (b : Bool) :
    let f := if b then c.flags ||| src.bit ||| 0x080#9 else c.flags ||| src.bit
    f.extractLsb' 0 5 = c.sources ||| src.place ∧ f.extractLsb' 5 2 = c.flags.extractLsb' 5 2 ∧
      f.getLsbD 8 = c.flags.getLsbD 8 ∧ f.getLsbD 7 = (c.ir || b) := by
  have key : ∀ (g : BitVec 9) (src : Source) (b : Bool),
      (if b then g ||| src.bit ||| 0x080#9 else g ||| src.bit).extractLsb' 0 5 = g.extractLsb' 0 5 ||| src.place ∧
      (if b then g ||| src.bit ||| 0x080#9 else g ||| src.bit).extractLsb' 5 2 = g.extractLsb' 5 2 ∧
      (if b then g ||| src.bit ||| 0x080#9 else g ||| src.bit).getLsbD 8 = g.getLsbD 8 ∧
      (if b then g ||| src.bit ||| 0x080#9 else g ||| src.bit).getLsbD 7 = (g.getLsbD 7 || b) := by
    intro g src b
    cases b <;> cases src <;>
      simp [Source.place, Source.bit, BitVec.extractLsb'_or]
  exact key c.flags src b

/-! ## The relation -/

/-- Nothing fires: the flags, the mask, the line and the line's events are as before. -/
theorem sourcesFired_none {s t : State} (hi : t.cia.icr = s.cia.icr) (hl : t.cia.irqOut = s.cia.irqOut)
    (he : irqEvents t.trace = irqEvents s.trace) : sourcesFired s t 0#5 false := by
  refine ⟨by rw [hi], by rw [hi]; simp, by rw [hi], by rw [hi]; simp, by rw [hi]; simp, ?_, ?_⟩
  · rw [hi, hl]; cases s.cia.icr.ir <;> simp
  · rw [hi, he]; cases s.cia.icr.ir <;> simp

/-- What fires first and what fires next fire together. -/
theorem sourcesFired_trans {s t u : State} {a b : BitVec 5} {x y : Bool}
    (hcfg : t.cfg = s.cfg) (h1 : sourcesFired s t a x) (h2 : sourcesFired t u b y) :
    sourcesFired s u (a ||| b) (x || y) := by
  obtain ⟨m1, s1, g1, t1, i1, l1, e1⟩ := h1
  obtain ⟨m2, s2, g2, t2, i2, l2, e2⟩ := h2
  have hi : u.cia.icr.ir =
      (s.cia.icr.ir || ((a ||| b) != 0#5 && u.cia.icr.sources &&& u.cia.icr.mask != 0#5)) := by
    rw [i2, i1, s2, m2, s1, m1]
    generalize s.cia.icr.sources = q
    generalize s.cia.icr.mask = m
    have key : ∀ (a b q m : BitVec 5),
        ((a != 0#5 && (q ||| a) &&& m != 0#5) || (b != 0#5 && (q ||| a ||| b) &&& m != 0#5)) =
          ((a ||| b) != 0#5 && (q ||| a ||| b) &&& m != 0#5) := by
      intro a b q m
      have bne : ∀ x : BitVec 5, (x != 0#5) = !decide (x = 0#5) := fun x => by
        by_cases h : x = 0#5 <;> simp [h]
      have hab : a ||| b = 0#5 ↔ a = 0#5 ∧ b = 0#5 := BitVec.or_eq_zero_iff
      have hq : (q ||| a ||| b) &&& m = 0#5 → (q ||| a) &&& m = 0#5 := fun h => by
        rw [BitVec.and_or_distrib_right] at h
        exact (BitVec.or_eq_zero_iff.mp h).1
      simp only [bne, hab]
      by_cases hb : b = 0#5
      · subst hb; simp
      · by_cases hm : (q ||| a ||| b) &&& m = 0#5
        · simp [hm, hq hm]
        · by_cases ha : a = 0#5 <;> simp [ha, hb, hm]
    rw [Bool.or_assoc, key]
  refine ⟨m2.trans m1, by rw [s2, s1, BitVec.or_assoc], g2.trans g1, by rw [t2, t1, Bool.or_assoc], hi, ?_, ?_⟩
  · rw [l2, l1, i2, i1]
    generalize (b != 0#5 && u.cia.icr.sources &&& u.cia.icr.mask != 0#5) = q
    generalize (a != 0#5 && t.cia.icr.sources &&& t.cia.icr.mask != 0#5) = p
    cases s.cia.icr.ir <;> cases s.cia.irqOut <;> cases p <;> cases q <;> rfl
  · rw [e2, e1, hcfg, i2, i1]
    generalize (b != 0#5 && u.cia.icr.sources &&& u.cia.icr.mask != 0#5) = q
    generalize (a != 0#5 && t.cia.icr.sources &&& t.cia.icr.mask != 0#5) = p
    cases s.cia.icr.ir <;> cases p <;> cases q <;> simp

/-- `RaiseSource` asserts the line where the source makes an enabled one pending and IR is clear. -/
theorem raises_eq (s : State) (src : Source) :
    s.cia.icr.raises src = ((s.cia.icr.sources ||| src.place) &&& s.cia.icr.mask != 0#5 && !s.cia.icr.ir) := by
  have hs := Icr.sources_or s.cia.icr.mask s.cia.icr.flags src
  rw [Icr.raises, Icr.ir_or_source, Icr.wantsIrq]
  exact congrArg (fun q => q &&& s.cia.icr.mask != 0#5 && !s.cia.icr.ir) hs

/-- `RaiseSource` fires its source. -/
theorem raiseSource_sourcesFired (s : State) (src : Source) : sourcesFired s (raiseSource src s) src.place false := by
  have hp : (src.place != 0#5) = true := by cases src <;> rfl
  have hr := raises_eq s src
  obtain ⟨f1, f2, f3, f4⟩ := Icr.raised_fields s.cia.icr src (s.cia.icr.raises src)
  have hf : s.cia.icr.raised src =
      if s.cia.icr.raises src then s.cia.icr.flags ||| src.bit ||| 0x080#9 else s.cia.icr.flags ||| src.bit := rfl
  rw [← hf] at f1 f2 f3 f4
  have h5 : (s.cia.icr.raised src).getLsbD 7 =
      (s.cia.icr.ir || (src.place != 0#5 && (s.cia.icr.raised src).extractLsb' 0 5 &&& s.cia.icr.mask != 0#5)) := by
    rw [f4, f1, hr, hp]
    generalize ((s.cia.icr.sources ||| src.place) &&& s.cia.icr.mask != 0#5) = p
    cases p <;> cases s.cia.icr.ir <;> rfl
  have h6 : s.cia.icr.raises src = (!s.cia.icr.ir && (s.cia.icr.raised src).getLsbD 7) := by
    rw [f4, hr]
    generalize ((s.cia.icr.sources ||| src.place) &&& s.cia.icr.mask != 0#5) = p
    cases p <;> cases s.cia.icr.ir <;> rfl
  rw [raiseSource_eq]
  refine ⟨rfl, f1, f2, f3.trans (Bool.or_false _).symm, h5, ?_, ?_⟩
  · show (if s.cia.icr.raises src then true else s.cia.irqOut) =
      (s.cia.irqOut || (!s.cia.icr.ir && (s.cia.icr.raised src).getLsbD 7))
    rw [← h6]
    cases s.cia.icr.raises src <;> cases s.cia.irqOut <;> rfl
  · show irqEvents (s.trace ++ if s.cia.icr.raises src then _ else []) =
      irqEvents s.trace ++ if (!s.cia.icr.ir && (s.cia.icr.raised src).getLsbD 7) then _ else []
    rw [← h6, irqEvents_append]
    cases s.cia.icr.raises src <;> rfl

/-- The Timer B bug's marker fires nothing and sets flag bit 8. -/
theorem markTbBug_sourcesFired (s : State) : sourcesFired s (markTbBug s) 0#5 true := by
  have hs : (markTbBug s).cia.icr.sources = s.cia.icr.sources := by
    simp [markTbBug, Icr.sources, BitVec.extractLsb'_or]
  have hir : (markTbBug s).cia.icr.ir = s.cia.icr.ir := by simp [markTbBug, Icr.ir]
  refine ⟨rfl, by rw [hs]; simp, ?_, ?_, by rw [hir]; simp, by rw [hir]; cases s.cia.icr.ir <;> simp [markTbBug],
    by rw [hir]; cases s.cia.icr.ir <;> simp [markTbBug]⟩
  · simp [markTbBug, BitVec.extractLsb'_or]
  · simp [markTbBug]

end Sys2Proof.Machine
end

