-- ==== Sys2Proof/Laws/Serial.lean ====
section
/-! SUPPORT. The laws of the serial port's procedures: what each leaves in the port's own fields, which sources it
fires, and that it touches nothing else. -/

namespace Sys2Proof.Machine

/-! ## What a procedure of the port may touch -/

/-- Only the serial port, its two driven pins, the flags and the line differ, and the trace has only grown. -/
def serialFrame (s t : State) : Prop :=
  ∃ d b c f q es,
    t = { s with
      cia.sdr := d, cia.spOut := b, cia.cntOut := c, cia.icr.flags := f, cia.irqOut := q, trace := s.trace ++ es }

theorem serialFrame_refl (s : State) : serialFrame s s :=
  ⟨s.cia.sdr, s.cia.spOut, s.cia.cntOut, s.cia.icr.flags, s.cia.irqOut, [], by simp⟩

theorem serialFrame_trans {s t u : State} (h : serialFrame s t) (k : serialFrame t u) : serialFrame s u := by
  obtain ⟨d, b, c, f, q, es, rfl⟩ := h
  obtain ⟨d', b', c', f', q', es', rfl⟩ := k
  exact ⟨d', b', c', f', q', es ++ es', by simp⟩

theorem serialFrame_sdr (s : State) (d : Sdr) : serialFrame s { s with cia.sdr := d } :=
  ⟨d, s.cia.spOut, s.cia.cntOut, s.cia.icr.flags, s.cia.irqOut, [], by simp⟩

theorem serialFrame_raiseSource (s : State) (src : Source) : serialFrame s (raiseSource src s) :=
  ⟨s.cia.sdr, s.cia.spOut, s.cia.cntOut, s.cia.icr.raised src, _, _, raiseSource_eq s src⟩

/-! ## One shift event out -/

/-- The two pins at one shift event: low, data, high, each event only on a change (43_sdr.md R221, R222). -/
theorem drivePins_eq (s : State) (b : Bool) :
    drivePins s b = { s with
      cia.spOut := b, cia.cntOut := true
      trace := s.trace ++ ((if s.cia.cntOut then [.countPin false] else []) ++
        ((if b = s.cia.spOut then [] else [.serialPin b]) ++ [.countPin true])) } := by
  simp only [drivePins, emitCnt_eq, emitSp_eq]
  cases s.cia.cntOut <;> simp

theorem irqEvents_drivePins (s : State) (b : Bool) : irqEvents (drivePins s b).trace = irqEvents s.trace := by
  rw [drivePins_eq]
  cases s.cia.cntOut <;> by_cases h : b = s.cia.spOut <;> simp [h, irqEvents]

/-- The events of the two pins at one shift event, and no event of a port. -/
theorem drivePins_events (s : State) (b : Bool) :
    serialEvents (drivePins s b).trace = serialEvents s.trace ++ s.cia.shiftEvents b ∧
    portEvents (drivePins s b).trace = portEvents s.trace := by
  rw [drivePins_eq]
  cases h : s.cia.cntOut <;> by_cases hb : b = s.cia.spOut <;>
    simp [Cia.shiftEvents, h, hb, serialEvents, portEvents]

/-- The port after the eighth shift event, `queued` being the byte in `SDR`. -/
def Sdr.completed (d : Sdr) (queued : Byte) : Sdr :=
  if d.forceFinish then { d with bits := 0, inflight := false, forceFinish := false, valid := false, delay := 0 }
  else if d.valid && d.delay == 0 then
    { d with shifter := queued.setWidth 16, valid := false, inflight := true, bits := 0 }
  else { d with bits := 0, inflight := false }

theorem completeOutput_eq (s : State) :
    completeOutput s = { raiseSource .sdr s with cia.sdr := s.cia.sdr.completed s.cia.regs.sdr } := by
  simp only [completeOutput, raiseSource_eq, Sdr.completed, State.byteReady]
  cases s.cia.sdr.forceFinish
  · cases s.cia.sdr.valid && s.cia.sdr.delay == 0
    · simp
    · simp [loadShifter, State.reg, Regs.get]
  · simp

/-- The port after one shift event of the byte in flight. -/
def Sdr.shifted (d : Sdr) (queued : Byte) : Sdr :=
  if d.bits = 7 then Sdr.completed { d with shifter := d.shifter <<< 1 } queued
  else { d with shifter := d.shifter <<< 1, bits := d.bits + 1 }

/-- The bit that a shift event puts on SP: bit 7 of the shifter before it (43_sdr.md R222). -/
theorem shiftedOutBit (x : Half) : (x <<< 1).getLsbD 8 = x.getLsbD 7 := by simp

/-- The state of a shift event before its bit is counted. -/
def bitDriven (s : State) : State :=
  drivePins { s with cia.sdr.shifter := s.cia.sdr.shifter <<< 1 } (s.cia.sdr.shifter.getLsbD 7)

theorem bitDriven_eq (s : State) :
    bitDriven s = { s with
      cia.sdr.shifter := s.cia.sdr.shifter <<< 1, cia.spOut := s.cia.sdr.shifter.getLsbD 7, cia.cntOut := true
      trace := (bitDriven s).trace } := by
  rw [bitDriven, drivePins_eq]

theorem bitDriven_frame (s : State) : serialFrame s (bitDriven s) := by
  rw [bitDriven, drivePins_eq]
  exact ⟨_, _, _, s.cia.icr.flags, s.cia.irqOut, _, rfl⟩

theorem shiftOut_eq (s : State) : shiftOut s = countShiftOut (bitDriven s) := by
  simp only [shiftOut, bitDriven, shiftedOutBit]

theorem countShiftOut_sdr (s : State) :
    (countShiftOut s).cia.sdr =
      if s.cia.sdr.bits = 7 then s.cia.sdr.completed s.cia.regs.sdr
      else { s.cia.sdr with bits := s.cia.sdr.bits + 1 } := by
  by_cases h : s.cia.sdr.bits = 7
  · simp [countShiftOut, h, completeOutput_eq]
  · simp [countShiftOut, h]

theorem countShiftOut_pins (s : State) :
    (countShiftOut s).cia.spOut = s.cia.spOut ∧ (countShiftOut s).cia.cntOut = s.cia.cntOut := by
  unfold countShiftOut
  split
  · rw [completeOutput_eq, raiseSource_eq]; exact ⟨rfl, rfl⟩
  · exact ⟨rfl, rfl⟩

theorem countShiftOut_frame (s : State) : serialFrame s (countShiftOut s) := by
  unfold countShiftOut
  split
  · rw [completeOutput_eq]
    exact serialFrame_trans (serialFrame_raiseSource _ _) (serialFrame_sdr _ _)
  · exact serialFrame_sdr _ _

theorem countShiftOut_fired (s : State) :
    sourcesFired s (countShiftOut s) (if s.cia.sdr.bits = 7 then Source.sdr.place else 0#5) false := by
  by_cases h : s.cia.sdr.bits = 7
  · simp only [countShiftOut, h, if_true, completeOutput_eq]
    exact raiseSource_sourcesFired s .sdr
  · simp only [countShiftOut, h, Nat.reduceEqDiff, if_false]
    exact sourcesFired_none rfl rfl rfl

theorem shiftOut_sdr (s : State) : (shiftOut s).cia.sdr = s.cia.sdr.shifted s.cia.regs.sdr := by
  rw [shiftOut_eq, countShiftOut_sdr, bitDriven_eq]
  rfl

theorem shiftOut_pins (s : State) :
    (shiftOut s).cia.spOut = s.cia.sdr.shifter.getLsbD 7 ∧ (shiftOut s).cia.cntOut = true := by
  obtain ⟨h, k⟩ := countShiftOut_pins (bitDriven s)
  rw [shiftOut_eq, h, k, bitDriven_eq]
  exact ⟨rfl, rfl⟩

/-- One shift event emits the events of its two pins, whatever completes with it. -/
theorem shiftOut_events (s : State) :
    serialEvents (shiftOut s).trace = serialEvents s.trace ++ s.cia.shiftEvents (s.cia.sdr.shifter.getLsbD 7) ∧
    portEvents (shiftOut s).trace = portEvents s.trace := by
  have hd : serialEvents (bitDriven s).trace = _ ∧ portEvents (bitDriven s).trace = _ := drivePins_events _ _
  have hc : serialEvents (countShiftOut (bitDriven s)).trace = serialEvents (bitDriven s).trace ∧
      portEvents (countShiftOut (bitDriven s)).trace = portEvents (bitDriven s).trace := by
    unfold countShiftOut
    split
    · rw [completeOutput_eq]; exact raiseSource_pinEvents _ _
    · exact ⟨rfl, rfl⟩
  rw [shiftOut_eq]
  exact ⟨hc.1.trans hd.1, hc.2.trans hd.2⟩

theorem shiftOut_frame (s : State) : serialFrame s (shiftOut s) := by
  rw [shiftOut_eq]
  exact serialFrame_trans (bitDriven_frame s) (countShiftOut_frame _)

/-- One shift event fires SDR at the eighth bit and nothing before. -/
theorem shiftOut_fired (s : State) :
    sourcesFired s (shiftOut s) (if s.cia.sdr.bits = 7 then Source.sdr.place else 0#5) false := by
  have h0 : sourcesFired s (bitDriven s) 0#5 false :=
    sourcesFired_none (by rw [bitDriven_eq]) (by rw [bitDriven_eq]) (irqEvents_drivePins _ _)
  have hc : (bitDriven s).cfg = s.cfg := by rw [bitDriven_eq]
  have hb : (bitDriven s).cia.sdr.bits = s.cia.sdr.bits := by rw [bitDriven_eq]
  have h1 := sourcesFired_trans hc h0 (countShiftOut_fired (bitDriven s))
  rw [hb, BitVec.zero_or, Bool.or_false] at h1
  rw [shiftOut_eq]
  exact h1

/-! ## The bit clock -/

/-- The three cases of `SdrClock()` (43_sdr.md R222). -/
theorem sdrClock_cases (s : State) :
    (s.serialOut = false ∧ s.cia.sdr.forceFinish = false ∧ sdrClock s = s) ∨
    ((s.serialOut = true ∨ s.cia.sdr.forceFinish = true) ∧
      ((s.cia.sdr.inflight = true ∧ sdrClock s = shiftOut s) ∨
      (s.cia.sdr.inflight = false ∧ s.byteReady = true ∧ sdrClock s = shiftOut (loadShifter s)) ∨
      (s.cia.sdr.inflight = false ∧ s.byteReady = false ∧ sdrClock s = s))) := by
  unfold sdrClock
  cases h1 : s.serialOut <;> cases h2 : s.cia.sdr.forceFinish <;> cases h3 : s.cia.sdr.inflight <;>
    cases h4 : s.byteReady <;> simp

theorem sdrClock_frame (s : State) : serialFrame s (sdrClock s) := by
  rcases sdrClock_cases s with ⟨-, -, h⟩ | ⟨-, ⟨-, h⟩ | ⟨-, -, h⟩ | ⟨-, -, h⟩⟩ <;> rw [h]
  · exact serialFrame_refl s
  · exact shiftOut_frame s
  · exact serialFrame_trans (serialFrame_sdr _ _) (shiftOut_frame _)
  · exact serialFrame_refl s

/-- `SdrClock()` fires SDR at the eighth shift event of the byte in flight, and nothing otherwise. -/
theorem sdrClock_fired (s : State) :
    sourcesFired s (sdrClock s)
      (if (s.serialOut || s.cia.sdr.forceFinish) && s.cia.sdr.inflight && s.cia.sdr.bits == 7
        then Source.sdr.place else 0#5) false := by
  have none : ∀ t : State, t = s → sourcesFired s t 0#5 false := fun t h =>
    sourcesFired_none (by rw [h]) (by rw [h]) (by rw [h])
  rcases sdrClock_cases s with ⟨h1, h2, h⟩ | ⟨h1, ⟨h2, h⟩ | ⟨h2, -, h⟩ | ⟨h2, -, h⟩⟩
  · simpa [h1, h2] using none _ h
  · have hc : (s.serialOut || s.cia.sdr.forceFinish) = true := by simpa using h1
    have := shiftOut_fired s
    rw [h, hc, h2]
    by_cases hb : s.cia.sdr.bits = 7 <;> simpa [hb] using this
  · have := shiftOut_fired (loadShifter s)
    rw [h, h2]
    simpa [loadShifter, sourcesFired] using this
  · simpa [h2] using none _ h

/-! ## One edge in -/

/-- `SdrShiftIn()`: the port, `SDR`, and the source (43_sdr.md R223). -/
theorem sdrShiftIn_eq (s : State) :
    sdrShiftIn s =
      let sh := (s.cia.sdr.shifter <<< 1) ||| (BitVec.ofBool s.cia.sp).setWidth 16
      if s.cia.sdr.bits = 7 then
        raiseSource .sdr { s with cia.sdr.shifter := sh, cia.sdr.bits := 0, cia.regs.sdr := lowByte sh }
      else { s with cia.sdr.shifter := sh, cia.sdr.bits := s.cia.sdr.bits + 1 } := by
  unfold sdrShiftIn
  by_cases h : s.cia.sdr.bits = 7
  · simp [h, State.setReg, Regs.set]
  · simp [h]

/-! ## Mode change -/

/-- `SdrModeChange` changes the port and nothing else. -/
theorem sdrModeChange_frame (o n : Bool) (s : State) :
    sdrModeChange o n s = { s with cia.sdr := (sdrModeChange o n s).cia.sdr } := by
  cases o <;> cases n <;> simp only [sdrModeChange] <;> split <;> rfl

end Sys2Proof.Machine
end

