-- ==== Sys2Proof/Laws/Timers.lean ====
section
/-! SUPPORT. The laws of the timers' procedures: the count of one tick, what an underflow of each timer leaves in
every field it touches and which sources it fires, and the latch and control stores. -/

namespace Sys2Proof.Machine

/-! ## One counted tick (41_timers.md R143) -/

theorem countDown_eq_zero (c : Half) : countDown c = 0 ↔ c.toNat ≤ 1 := by
  unfold countDown
  split
  · next h => simp [h]
  · next h => bv_omega

/-- A count above 1 goes one down. -/
theorem countDown_of_lt {c : Half} (h : 1 < c.toNat) : countDown c = c - 1 ∧ (countDown c).toNat = c.toNat - 1 := by
  unfold countDown
  split
  · next k => simp [k] at h
  · next k => exact ⟨rfl, by bv_omega⟩

/-! ## The parts of an underflow (R144 to R146) -/

theorem oneShotStopA_eq (s : State) :
    oneShotStopA s = { s with
      cia.regs.cra := if s.oneShot .a then putBit s.cia.regs.cra 0 false else s.cia.regs.cra
      cia.ta.delay := if s.oneShot .a then 0 else s.cia.ta.delay } := by
  unfold oneShotStopA
  cases s.oneShot .a <;> rfl

theorem oneShotStopB_eq (s : State) :
    oneShotStopB s = { s with
      cia.regs.crb := if s.oneShot .b then putBit s.cia.regs.crb 0 false else s.cia.regs.crb
      cia.tb.delay := if s.oneShot .b then 0 else s.cia.tb.delay
      cia.tb.skip := if s.oneShot .b then 0 else s.cia.tb.skip } := by
  unfold oneShotStopB
  cases s.oneShot .b <;> rfl

theorem tbBugCheck_eq (s : State) :
    tbBugCheck s = { s with
      cia.tb.skip := s.cia.tb.skip + if s.cia.tbRestart then s.cfg.tbBugLoss else 0
      cia.tbRestart := false
      cia.icr.flags := if s.cia.tbRestart then s.cia.icr.flags ||| 0x100#9 else s.cia.icr.flags } := by
  unfold tbBugCheck
  cases h : s.cia.tbRestart
  · obtain ⟨c, cfg, script, trace, ret⟩ := s
    obtain ⟨⟩ := c
    simp_all
  · rfl

theorem tbBugCheck_fired (s : State) : sourcesFired s (tbBugCheck s) 0#5 s.cia.tbRestart := by
  unfold tbBugCheck
  cases h : s.cia.tbRestart
  · exact sourcesFired_none rfl rfl rfl
  · simp only [if_true]
    exact markTbBug_sourcesFired { s with cia.tb.skip := s.cia.tb.skip + s.cfg.tbBugLoss, cia.tbRestart := false }

/-! ## Timer A's underflow -/

/-- The state of Timer A's underflow before it clocks the serial port. -/
def underflowABase (s : State) : State :=
  tbBugCheck (raiseSource .ta (oneShotStopA (s.setTimer .a s.cia.ta.reload)))

theorem underflowA_eq (s : State) : underflowA s = sdrClock (underflowABase s) := rfl

theorem underflowABase_eq (s : State) :
    underflowABase s = { s with
      cia.regs.cra := if s.oneShot .a then putBit s.cia.regs.cra 0 false else s.cia.regs.cra
      cia.ta := { s.cia.ta.reload with delay := if s.oneShot .a then 0 else s.cia.ta.delay }
      cia.tb.skip := s.cia.tb.skip + if s.cia.tbRestart then s.cfg.tbBugLoss else 0
      cia.tbRestart := false
      cia.icr.flags :=
        if s.cia.tbRestart then s.cia.icr.raised .ta ||| 0x100#9 else s.cia.icr.raised .ta
      cia.irqOut := if s.cia.icr.raises .ta then true else s.cia.irqOut
      trace := s.trace ++
        if s.cia.icr.raises .ta then [.irqLine s.cfg.irqLine s.cfg.ctxId true] else [] } := by
  unfold underflowABase
  rw [tbBugCheck_eq, raiseSource_eq, oneShotStopA_eq]
  rfl

theorem underflowABase_fired (s : State) :
    sourcesFired s (underflowABase s) Source.ta.place s.cia.tbRestart := by
  have h0 : sourcesFired s (oneShotStopA (s.setTimer .a s.cia.ta.reload)) 0#5 false := by
    rw [oneShotStopA_eq]; exact sourcesFired_none rfl rfl rfl
  have hc : (oneShotStopA (s.setTimer .a s.cia.ta.reload)).cfg = s.cfg := by rw [oneShotStopA_eq]; rfl
  have hr : (raiseSource .ta (oneShotStopA (s.setTimer .a s.cia.ta.reload))).cia.tbRestart = s.cia.tbRestart := by
    rw [raiseSource_eq, oneShotStopA_eq]; rfl
  have hd : (raiseSource .ta (oneShotStopA (s.setTimer .a s.cia.ta.reload))).cfg = s.cfg := by
    rw [raiseSource_eq, oneShotStopA_eq]; rfl
  have h1 := sourcesFired_trans hc h0 (raiseSource_sourcesFired _ .ta)
  have h2 := sourcesFired_trans hd h1 (tbBugCheck_fired _)
  rw [hr] at h2
  simpa [underflowABase] using h2

theorem underflowABase_port (s : State) :
    (underflowABase s).cia.sdr = s.cia.sdr ∧ (underflowABase s).serialOut = s.serialOut ∧
      (underflowABase s).cfg = s.cfg := by
  rw [underflowABase_eq]
  refine ⟨rfl, ?_, rfl⟩
  have h := putBit_getLsbD s.cia.regs.cra 0 6 false (by decide) (by decide)
  simp only [State.serialOut, State.reg, Regs.get]
  cases s.oneShot .a
  · rfl
  · simpa using h

/-- An underflow of Timer A fires TA, marks the Timer B bug where Timer B was restarted in the cycle, and fires SDR
where it shifts out an eighth bit (R144). -/
theorem underflowA_fired (s : State) :
    sourcesFired s (underflowA s)
      (Source.ta.place |||
        if (s.serialOut || s.cia.sdr.forceFinish) && s.cia.sdr.inflight && s.cia.sdr.bits == 7
          then Source.sdr.place else 0#5) s.cia.tbRestart := by
  obtain ⟨h1, h2, h3⟩ := underflowABase_port s
  have h := sourcesFired_trans h3 (underflowABase_fired s) (sdrClock_fired (underflowABase s))
  rw [h1, h2, Bool.or_false] at h
  exact h

/-- The timers' and the register file's fields after an underflow of Timer A. -/
theorem underflowA_timers (s : State) :
    (underflowA s).cia.ta = { s.cia.ta.reload with delay := if s.oneShot .a then 0 else s.cia.ta.delay } ∧
    (underflowA s).cia.tb = { s.cia.tb with
      skip := s.cia.tb.skip + if s.cia.tbRestart then s.cfg.tbBugLoss else 0 } ∧
    (underflowA s).cia.tbRestart = false ∧
    (underflowA s).cia.regs = { s.cia.regs with
      cra := if s.oneShot .a then putBit s.cia.regs.cra 0 false else s.cia.regs.cra } := by
  obtain ⟨d, b, c, f, q, es, h⟩ := sdrClock_frame (underflowABase s)
  rw [underflowA_eq, h, underflowABase_eq]
  exact ⟨rfl, rfl, rfl, rfl⟩

/-! ## Timer B's underflow -/

theorem underflowB_eq (s : State) :
    underflowB s = { s with
      cia.regs.crb := if s.oneShot .b then putBit s.cia.regs.crb 0 false else s.cia.regs.crb
      cia.tb := {
        toTimer := { s.cia.tb.toTimer.reload with delay := if s.oneShot .b then 0 else s.cia.tb.delay }
        skip := if s.oneShot .b then 0 else s.cia.tb.skip }
      cia.icr.flags := s.cia.icr.raised .tb
      cia.irqOut := if s.cia.icr.raises .tb then true else s.cia.irqOut
      trace := s.trace ++
        if s.cia.icr.raises .tb then [.irqLine s.cfg.irqLine s.cfg.ctxId true] else [] } := by
  unfold underflowB
  rw [raiseSource_eq, oneShotStopB_eq]
  rfl

/-- An underflow of Timer B fires TB (R145). -/
theorem underflowB_fired (s : State) : sourcesFired s (underflowB s) Source.tb.place false := by
  have h0 : sourcesFired s (oneShotStopB (s.setTimer .b s.cia.tb.toTimer.reload)) 0#5 false := by
    rw [oneShotStopB_eq]; exact sourcesFired_none rfl rfl rfl
  have hc : (oneShotStopB (s.setTimer .b s.cia.tb.toTimer.reload)).cfg = s.cfg := by rw [oneShotStopB_eq]; rfl
  have h := sourcesFired_trans hc h0 (raiseSource_sourcesFired _ .tb)
  simpa [underflowB] using h

/-! ## Ticks -/

/-- The two cases of a counted tick of Timer A (R143). -/
theorem countA_cases (s : State) :
    (s.cia.ta.atEnd = true ∧ countA s = (underflowA { s with cia.ta.count := 0 }, true)) ∨
    (s.cia.ta.atEnd = false ∧ countA s = ({ s with cia.ta.count := s.cia.ta.count - 1 }, false)) := by
  unfold countA Timer.atEnd
  by_cases h : s.cia.ta.count.toNat ≤ 1
  · left
    simp [h, (countDown_eq_zero s.cia.ta.count).mpr h]
  · right
    have k : ¬ countDown s.cia.ta.count = 0 := fun e => h ((countDown_eq_zero _).mp e)
    have e := (countDown_of_lt (by omega : 1 < s.cia.ta.count.toNat)).1
    rw [e] at k
    simp only [h, decide_false, e, true_and]
    rw [if_neg k]

/-- The three cases of an accepted tick of Timer B: lost to the bug, an underflow, or one down (R143, R146). -/
theorem countB_cases (s : State) :
    (0 < s.cia.tb.skip ∧ countB s = { s with cia.tb.skip := s.cia.tb.skip - 1 }) ∨
    (s.cia.tb.skip = 0 ∧ s.cia.tb.toTimer.atEnd = true ∧ countB s = underflowB { s with cia.tb.count := 0 }) ∨
    (s.cia.tb.skip = 0 ∧ s.cia.tb.toTimer.atEnd = false ∧
      countB s = { s with cia.tb.count := s.cia.tb.count - 1 }) := by
  unfold countB Timer.atEnd
  by_cases h0 : 0 < s.cia.tb.skip
  · left; simp [h0]
  · have z : s.cia.tb.skip = 0 := by omega
    right
    by_cases h : s.cia.tb.count.toNat ≤ 1
    · left
      simp [z, h, (countDown_eq_zero s.cia.tb.count).mpr h]
    · right
      have k : ¬ countDown s.cia.tb.count = 0 := fun e => h ((countDown_eq_zero _).mp e)
      have e := (countDown_of_lt (by omega : 1 < s.cia.tb.count.toNat)).1
      rw [e] at k
      refine ⟨z, by simp [h], ?_⟩
      rw [if_neg h0, e]
      simp only
      rw [if_neg k]

/-! ## Latch and control stores (R147, R162, R165) -/

theorem latchWritten_eq (t : TimerId) (s : State) :
    latchWritten t s =
      s.setTimer t { s.timer t with count := if s.started t then (s.timer t).count else (s.timer t).latch } := by
  unfold latchWritten
  cases h : s.started t
  · rfl
  · cases t <;> rfl

theorem forceLoad_eq (t : TimerId) (v : Byte) (s : State) :
    forceLoad t v s =
      s.setTimer t { s.timer t with count := if v.getLsbD 4 then (s.timer t).latch else (s.timer t).count } := by
  unfold forceLoad
  cases v.getLsbD 4
  · cases t <;> rfl
  · rfl

/-- The common part of a control store, as one update. -/
theorem controlStored_eq (t : TimerId) (v : Byte) (s : State) :
    controlStored t v s =
      (s.setReg t.controlReg (storedControl v)).setTimer t { s.timer t with
        count := if v.getLsbD 4 then (s.timer t).latch else (s.timer t).count
        delay := delayAfter s.cfg.model (s.control t) v (s.timer t).delay } := by
  unfold controlStored
  rw [forceLoad_eq]
  cases t <;> rfl

theorem restartMarked_eq (old v : Byte) (s : State) :
    restartMarked old v s = { s with
      cia.tb.skip := if v.getLsbD 0 then s.cia.tb.skip else 0
      cia.tbRestart := if v.getLsbD 0 then isRestart old v || s.cia.tbRestart else false } := by
  unfold restartMarked
  cases v.getLsbD 0
  · rfl
  · cases isRestart old v <;> rfl

end Sys2Proof.Machine
end

