-- ==== Sys2Proof/Laws/Clock.lean ====
section
/-! SUPPORT. The laws of the two timers' parts in a clock cycle and in a rising edge of CNT, case by case in the words
of 41_timers.md R141 to R143, and of the reset announcement. -/

namespace Sys2Proof.Machine

/-! ## Timer A's part (R170, R171) -/

/-- Timer A in a cycle: counted, waiting out its start-up delay, or left alone. -/
theorem phi2TimerA_cases (s : State) :
    (s.phi2CountsA = true ∧ phi2TimerA s = countA s) ∨
    (s.phi2CountsA = false ∧ s.started .a = true ∧ 0 < s.cia.ta.delay ∧
      phi2TimerA s = ({ s with cia.ta.delay := s.cia.ta.delay - 1 }, false)) ∨
    (s.phi2CountsA = false ∧ (s.started .a = false ∨ s.cia.ta.delay = 0) ∧ phi2TimerA s = (s, false)) := by
  unfold phi2TimerA State.phi2CountsA
  cases h : s.started .a
  · simp
  · by_cases d : s.cia.ta.delay = 0
    · cases c : s.countsCntA <;> simp [d]
    · have : 0 < s.cia.ta.delay := by omega
      simp [d, this]

/-- Timer A at a rising edge: counted or left alone. -/
theorem cntTimerA_cases (s : State) :
    (s.cntCountsA = true ∧ cntTimerA s = countA s) ∨ (s.cntCountsA = false ∧ cntTimerA s = (s, false)) := by
  unfold cntTimerA State.cntCountsA
  cases s.started .a <;> cases s.countsCntA <;> cases s.cia.ta.delay == 0 <;> simp

/-! ## Timer B's part (R170, R171) -/

/-- A two-bit mode is one of four. -/
theorem inmodeB_cases (s : State) : s.inmodeB = 0#2 ∨ s.inmodeB = 1#2 ∨ s.inmodeB = 2#2 ∨ s.inmodeB = 3#2 := by
  generalize s.inmodeB = m
  revert m; decide

/-- Timer B in a cycle: an accepted tick, a cycle of its start-up delay, or nothing. -/
theorem phi2TimerB_cases (uA : Bool) (s : State) :
    (s.phi2AcceptsB uA = true ∧ phi2TimerB uA s = countB s) ∨
    (s.phi2AcceptsB uA = false ∧ s.started .b = true ∧ 0 < s.cia.tb.delay ∧
      phi2TimerB uA s = { s with cia.tb.delay := s.cia.tb.delay - 1 }) ∨
    (s.phi2AcceptsB uA = false ∧ (s.started .b = false ∨ s.cia.tb.delay = 0) ∧ phi2TimerB uA s = s) := by
  unfold phi2TimerB State.phi2AcceptsB State.phi2TicksB
  cases h : s.started .b
  · simp
  · by_cases d : s.cia.tb.delay = 0
    · rcases inmodeB_cases s with m | m | m | m <;> simp only [m, d] <;>
        cases uA <;> cases s.cia.cnt <;> simp
    · have : 0 < s.cia.tb.delay := by omega
      simp [d, this]

/-- Timer B at a rising edge: an accepted tick or nothing. -/
theorem cntTimerB_cases (uA : Bool) (s : State) :
    (s.cntAcceptsB uA = true ∧ cntTimerB uA s = countB s) ∨
    (s.cntAcceptsB uA = false ∧ cntTimerB uA s = s) := by
  unfold cntTimerB State.cntAcceptsB State.cntTicksB
  cases s.started .b
  · simp
  · cases s.cia.tb.delay == 0
    · simp
    · rcases inmodeB_cases s with m | m | m | m <;> simp only [m] <;> cases uA <;> simp

/-! ## The reset announcement (45_system.md R261) -/

theorem emitIf_eq (b : Bool) (e : OutEvent) (s : State) :
    emitIf b e s = { s with trace := s.trace ++ if b then [e] else [] } := by
  cases b
  · simp [emitIf]
  · rfl

theorem announceReset_eq (s : State) :
    announceReset s = { s with
      trace := s.trace ++
        ((if s.cia.irqOut then [.irqLine s.cfg.irqLine s.cfg.ctxId false] else []) ++
        ((if s.cia.oldPortA != 0xFF#8 then [.portA 0xFF] else []) ++
        ((if s.cia.oldPortB != 0xFF#8 then [.portB 0xFF] else []) ++
        ((if !s.cia.spOut then [.serialPin true] else []) ++
        if !s.cia.cntOut then [.countPin true] else [])))) } := by
  simp only [announceReset, emitIf_eq, List.append_assoc]
  rfl

/-! ## The mask command (44_icr.md R243) -/

/-- Each mask bit after the command byte `v`. -/
theorem maskAfter_getLsbD (c : Icr) (v : Byte) (i : Nat) (h : i < 5) :
    (c.maskAfter v).getLsbD i = if v.getLsbD i then v.getLsbD 7 else c.mask.getLsbD i := by
  unfold Icr.maskAfter
  cases k : v.getLsbD 7 <;> cases l : v.getLsbD i <;>
    simp only [Bool.false_eq_true, if_true, if_false, BitVec.getLsbD_or, BitVec.getLsbD_and,
      BitVec.getLsbD_not, BitVec.getLsbD_extractLsb', h, decide_true, Nat.zero_add, l] <;> simp

end Sys2Proof.Machine
end

