-- ==== Sys2Proof/Laws/Decode.lean ====
section
/-! SUPPORT. The fields of the words the encoder writes, and the two views of a register and of an operation. -/

namespace Sys2Proof

@[simp] theorem Reg.ofOffset_offset (r : Reg) : Reg.ofOffset r.offset = r := by cases r <;> rfl

@[simp] theorem Reg.offset_ofOffset (a : BitVec 4) : (Reg.ofOffset a).offset = a := by
  revert a; decide

@[simp] theorem Instr.ofShape_shape (i : Instr) : Instr.ofShape i.shape = i := by cases i <;> rfl

@[simp] theorem Instr.shape_ofShape (x : Shape) : (Instr.ofShape x).shape = x := by
  cases x with
  | load r => cases r <;> rfl
  | store r v => cases r <;> rfl
  | peek r => cases r <;> rfl
  | event e => cases e <;> rfl

/-! ## Reading back a bus word -/

theorem getLsbD_busWord (f : BitVec 2) (r : Reg) (d : Byte) (i : Nat) :
    (busWord f r d).getLsbD i =
      if i < 8 then d.getLsbD i else if i < 12 then r.offset.getLsbD (i - 8)
      else if i < 14 then false else f.getLsbD (i - 14) := by
  simp only [busWord, BitVec.getLsbD_append]
  by_cases h1 : i < 8
  · simp [h1]
  by_cases h2 : i < 12
  · simp [h1, h2, show i - 8 < 4 by omega]
  by_cases h3 : i < 14
  · simp [h1, h2, h3, show ¬ i - 8 < 4 by omega, show i - 8 - 4 < 2 by omega]
  · simp [h1, h2, h3, show ¬ i - 8 < 4 by omega, show ¬ i - 8 - 4 < 2 by omega,
      show i - 8 - 4 - 2 = i - 14 by omega]

theorem getLsbD_eventWord (c : BitVec 6) (d : Byte) (i : Nat) :
    (eventWord c d).getLsbD i =
      if i < 8 then d.getLsbD i else if i < 14 then c.getLsbD (i - 8) else (3#2).getLsbD (i - 14) := by
  simp only [eventWord, BitVec.getLsbD_append]
  by_cases h1 : i < 8
  · simp [h1]
  by_cases h2 : i < 14
  · simp [h1, h2, show i - 8 < 6 by omega]
  · simp [h1, h2, show ¬ i - 8 < 6 by omega, show i - 8 - 6 = i - 14 by omega]

@[simp] theorem fmtOf_busWord (f : BitVec 2) (r : Reg) (d : Byte) : fmtOf (busWord f r d) = f := by
  apply BitVec.eq_of_getLsbD_eq
  intro i hi
  simp [fmtOf, getLsbD_busWord, hi]
  rw [if_neg (by omega), if_neg (by omega)]

@[simp] theorem regNoOf_busWord (f : BitVec 2) (r : Reg) (d : Byte) : regNoOf (busWord f r d) = r.offset := by
  apply BitVec.eq_of_getLsbD_eq
  intro i hi
  simp [regNoOf, getLsbD_busWord, hi]
  intro h; omega

@[simp] theorem dataOf_busWord (f : BitVec 2) (r : Reg) (d : Byte) : dataOf (busWord f r d) = d := by
  apply BitVec.eq_of_getLsbD_eq
  intro i hi
  simp [dataOf, getLsbD_busWord, hi]

/-! ## Reading back an event word -/

@[simp] theorem fmtOf_eventWord (c : BitVec 6) (d : Byte) : fmtOf (eventWord c d) = 3#2 := by
  apply BitVec.eq_of_getLsbD_eq
  intro i hi
  simp [fmtOf, getLsbD_eventWord, hi]
  intro h; omega

@[simp] theorem codeOf_eventWord (c : BitVec 6) (d : Byte) : codeOf (eventWord c d) = c := by
  apply BitVec.eq_of_getLsbD_eq
  intro i hi
  simp [codeOf, getLsbD_eventWord, hi]
  intro h; omega

@[simp] theorem dataOf_eventWord (c : BitVec 6) (d : Byte) : dataOf (eventWord c d) = d := by
  apply BitVec.eq_of_getLsbD_eq
  intro i hi
  simp [dataOf, getLsbD_eventWord, hi]

@[simp] theorem levelOf_levelArg (b : Bool) : levelOf (levelArg b) = b := by cases b <;> rfl

end Sys2Proof
end

