-- ==== Sys2Proof/Laws/PerInstr.lean ====
section
/-! SUPPORT. The per-instruction family `RowMatches`: the canonical word of an operation has its row's match bits under
its row's mask (30_encoding.md R104). -/

namespace Sys2Proof

theorem busWord_and_mask (f : BitVec 2) (r : Reg) (d : Byte) : busWord f r d &&& 0xCF00#16 = busWord f r 0 := by
  have hm : ∀ i : Fin 16, (0xCF00#16).getLsbD i = decide (8 ≤ i.val ∧ ¬ (12 ≤ i.val ∧ i.val < 14)) := by decide
  apply BitVec.eq_of_getLsbD_eq
  intro i hi
  rw [BitVec.getLsbD_and, hm ⟨i, hi⟩, getLsbD_busWord, getLsbD_busWord]
  by_cases h1 : i < 8
  · simp [h1]
  · by_cases h2 : i < 12
    · simp [h1, h2, show 8 ≤ i by omega, show ¬ 12 ≤ i by omega]
    · by_cases h3 : i < 14
      · simp [h1, h2, h3]
      · simp [h1, h2, h3, show 8 ≤ i by omega]

theorem eventWord_and_mask (c : BitVec 6) (d : Byte) : eventWord c d &&& 0xFF00#16 = eventWord c 0 := by
  have hm : ∀ i : Fin 16, (0xFF00#16).getLsbD i = decide (8 ≤ i.val) := by decide
  apply BitVec.eq_of_getLsbD_eq
  intro i hi
  rw [BitVec.getLsbD_and, hm ⟨i, hi⟩, getLsbD_eventWord, getLsbD_eventWord]
  by_cases h1 : i < 8
  · simp [h1]
  · simp [h1, show 8 ≤ i by omega]

namespace Laws.RowMatches

/-- The canonical word of `i` belongs to `i`'s row. -/
def Statement (i : Instr) : Prop := encode i &&& rowMask i = rowMatch i

/-- The statement for the four shapes. -/
theorem of_shape (x : Shape) : Statement (Instr.ofShape x) := by
  cases x with
  | load r =>
    simp only [Statement, encode, rowMask, rowMatch, Instr.shape_ofShape, busWord_and_mask]
    cases r <;> decide
  | store r v =>
    simp only [Statement, encode, rowMask, rowMatch, Instr.shape_ofShape, busWord_and_mask]
    cases r <;> decide
  | peek r =>
    simp only [Statement, encode, rowMask, rowMatch, Instr.shape_ofShape, busWord_and_mask]
    cases r <;> decide
  | event e =>
    cases e <;>
      simp only [Statement, encode, encodeEvent, rowMask, rowMatch, Instr.shape_ofShape, Event.code,
        eventWord_and_mask] <;> decide

theorem ldPra : Statement .ldPra := of_shape (.load .pra)
theorem ldPrb : Statement .ldPrb := of_shape (.load .prb)
theorem ldDdra : Statement .ldDdra := of_shape (.load .ddra)
theorem ldDdrb : Statement .ldDdrb := of_shape (.load .ddrb)
theorem ldTalo : Statement .ldTalo := of_shape (.load .talo)
theorem ldTahi : Statement .ldTahi := of_shape (.load .tahi)
theorem ldTblo : Statement .ldTblo := of_shape (.load .tblo)
theorem ldTbhi : Statement .ldTbhi := of_shape (.load .tbhi)
theorem ldTod10 : Statement .ldTod10 := of_shape (.load .tod10)
theorem ldTodsec : Statement .ldTodsec := of_shape (.load .todsec)
theorem ldTodmin : Statement .ldTodmin := of_shape (.load .todmin)
theorem ldTodhr : Statement .ldTodhr := of_shape (.load .todhr)
theorem ldSdr : Statement .ldSdr := of_shape (.load .sdr)
theorem ldIcr : Statement .ldIcr := of_shape (.load .icr)
theorem ldCra : Statement .ldCra := of_shape (.load .cra)
theorem ldCrb : Statement .ldCrb := of_shape (.load .crb)
theorem stPra (v : Byte) : Statement (.stPra v) := of_shape (.store .pra v)
theorem stPrb (v : Byte) : Statement (.stPrb v) := of_shape (.store .prb v)
theorem stDdra (v : Byte) : Statement (.stDdra v) := of_shape (.store .ddra v)
theorem stDdrb (v : Byte) : Statement (.stDdrb v) := of_shape (.store .ddrb v)
theorem stTalo (v : Byte) : Statement (.stTalo v) := of_shape (.store .talo v)
theorem stTahi (v : Byte) : Statement (.stTahi v) := of_shape (.store .tahi v)
theorem stTblo (v : Byte) : Statement (.stTblo v) := of_shape (.store .tblo v)
theorem stTbhi (v : Byte) : Statement (.stTbhi v) := of_shape (.store .tbhi v)
theorem stTod10 (v : Byte) : Statement (.stTod10 v) := of_shape (.store .tod10 v)
theorem stTodsec (v : Byte) : Statement (.stTodsec v) := of_shape (.store .todsec v)
theorem stTodmin (v : Byte) : Statement (.stTodmin v) := of_shape (.store .todmin v)
theorem stTodhr (v : Byte) : Statement (.stTodhr v) := of_shape (.store .todhr v)
theorem stSdr (v : Byte) : Statement (.stSdr v) := of_shape (.store .sdr v)
theorem stIcr (v : Byte) : Statement (.stIcr v) := of_shape (.store .icr v)
theorem stCra (v : Byte) : Statement (.stCra v) := of_shape (.store .cra v)
theorem stCrb (v : Byte) : Statement (.stCrb v) := of_shape (.store .crb v)
theorem pkPra : Statement .pkPra := of_shape (.peek .pra)
theorem pkPrb : Statement .pkPrb := of_shape (.peek .prb)
theorem pkDdra : Statement .pkDdra := of_shape (.peek .ddra)
theorem pkDdrb : Statement .pkDdrb := of_shape (.peek .ddrb)
theorem pkTalo : Statement .pkTalo := of_shape (.peek .talo)
theorem pkTahi : Statement .pkTahi := of_shape (.peek .tahi)
theorem pkTblo : Statement .pkTblo := of_shape (.peek .tblo)
theorem pkTbhi : Statement .pkTbhi := of_shape (.peek .tbhi)
theorem pkTod10 : Statement .pkTod10 := of_shape (.peek .tod10)
theorem pkTodsec : Statement .pkTodsec := of_shape (.peek .todsec)
theorem pkTodmin : Statement .pkTodmin := of_shape (.peek .todmin)
theorem pkTodhr : Statement .pkTodhr := of_shape (.peek .todhr)
theorem pkSdr : Statement .pkSdr := of_shape (.peek .sdr)
theorem pkIcr : Statement .pkIcr := of_shape (.peek .icr)
theorem pkCra : Statement .pkCra := of_shape (.peek .cra)
theorem pkCrb : Statement .pkCrb := of_shape (.peek .crb)
theorem phi2 : Statement .phi2 := of_shape (.event .phi2)
theorem todtick : Statement .todtick := of_shape (.event .todtick)
theorem cnt (level : Bool) : Statement (.cnt level) := of_shape (.event (.cnt level))
theorem sp (level : Bool) : Statement (.sp level) := of_shape (.event (.sp level))
theorem flag : Statement .flag := of_shape (.event .flag)
theorem setsdr (v : Byte) : Statement (.setsdr v) := of_shape (.event (.setsdr v))
theorem pina (v : Byte) : Statement (.pina v) := of_shape (.event (.pina v))
theorem pinb (v : Byte) : Statement (.pinb v) := of_shape (.event (.pinb v))
theorem reset : Statement .reset := of_shape (.event .reset)
theorem disable : Statement .disable := of_shape (.event .disable)

end Laws.RowMatches

end Sys2Proof
end

