-- ==== Sys2Proof/Laws/Tod.lean ====
section
/-! SUPPORT. The laws of the clock's procedures: a store, the hold, one tick, and the BCD increments on legal bytes. -/

namespace Sys2Proof.Machine

/-! ## Stores and the hold (42_tod.md R191, R205) -/

/-- A store changes the shadow byte and the clock's own record, nothing else. -/
theorem todStore_eq (f : TodField) (v : Byte) (s : State) :
    todStore f v s = { s with
      cia.regs := s.cia.regs.set f.reg v
      cia.tod := if s.alarmMode then { s.cia.tod with alarm := s.cia.tod.alarm.set f v }
        else clockStorePlace f v (clockStoreGate f s.cia.tod)
      ret := none } := by
  have h : (s.silent.setReg f.reg v).alarmMode = s.alarmMode := by cases f <;> rfl
  simp only [todStore, h]
  cases s.alarmMode <;> rfl

theorem clockStoreGate_eq (f : TodField) (d : Tod) :
    clockStoreGate f d = { d with
      stopped := if f = .hr then true else if f = .ten then false else d.stopped
      ticks := if f = .hr then 0 else d.ticks } := by
  cases f <;> rfl

theorem clockStorePlace_eq (f : TodField) (v : Byte) (d : Tod) :
    clockStorePlace f v d = { d with
      wbuf := if d.latched then d.wbuf.set f v else d.wbuf
      clk := if d.latched then d.clk else d.clk.set f v
      wmask := if d.latched then d.wmask ||| f.maskBit else d.wmask &&& ~~~f.maskBit } := by
  unfold clockStorePlace
  cases d.latched <;> rfl

/-- The bit of one field in the mask of another. -/
theorem maskBit_getLsbD (f g : TodField) : f.maskBit.getLsbD g.bit = decide (g = f) := by
  cases f <;> cases g <;> rfl

theorem takeHold_eq (d : Tod) :
    takeHold d = { d with snap := if d.latched then d.snap else d.clk, latched := true } := by
  unfold takeHold
  cases h : d.latched
  · rfl
  · obtain ⟨⟩ := d
    simp_all

/-! ## One tick (R210) -/

/-- The clock's record after one sub-tick on an enabled block, `div` being the divisor. -/
def Tod.ticked (d : Tod) (div : Nat) : Tod :=
  if d.stopped then commitBuffer d
  else if div ≤ d.ticks + 1 then { commitBuffer d with ticks := 0, clk := (commitBuffer d).clk.increment }
  else { commitBuffer d with ticks := d.ticks + 1 }

/-- A sub-tick completes a tenth of a second. -/
def Tod.tenthDue (d : Tod) (div : Nat) : Bool := !d.stopped && decide (div ≤ d.ticks + 1)

/-- The state after the tick boundary of the write-buffer. -/
def committed (s : State) : State := { s with cia.tod := commitBuffer s.cia.tod }

/-- The three cases of a tick: stopped, a tenth completed, a sub-tick counted. -/
theorem todTick_cases (s : State) :
    (s.cia.tod.stopped = true ∧ todTick s = committed s) ∨
    (s.cia.tod.stopped = false ∧ s.todDiv ≤ s.cia.tod.ticks + 1 ∧ todTick s = todTenth (committed s)) ∨
    (s.cia.tod.stopped = false ∧ ¬ s.todDiv ≤ s.cia.tod.ticks + 1 ∧
      todTick s = { committed s with cia.tod.ticks := s.cia.tod.ticks + 1 }) := by
  have e : todTick s = if s.cia.tod.stopped then committed s
      else if s.todDiv ≤ s.cia.tod.ticks + 1 then todTenth (committed s)
      else { committed s with cia.tod.ticks := s.cia.tod.ticks + 1 } := rfl
  rw [e]
  by_cases h : s.cia.tod.stopped = true
  · left; exact ⟨h, if_pos h⟩
  · right
    rw [if_neg h]
    by_cases k : s.todDiv ≤ s.cia.tod.ticks + 1
    · left; exact ⟨by simpa using h, k, if_pos k⟩
    · right; exact ⟨by simpa using h, k, if_neg k⟩

/-- The state a completed tenth leaves before the alarm is compared. -/
def tenthAdvanced (s : State) : State :=
  { s with cia.tod.ticks := 0, cia.tod.clk := s.cia.tod.clk.increment }

theorem todTenth_eq (s : State) :
    todTenth s = if s.cia.tod.clk.increment = s.cia.tod.alarm then raiseSource .tod (tenthAdvanced s)
      else tenthAdvanced s := rfl

theorem todTick_tod (s : State) : (todTick s).cia.tod = s.cia.tod.ticked s.todDiv := by
  rcases todTick_cases s with ⟨h, e⟩ | ⟨h, k, e⟩ | ⟨h, k, e⟩
  · rw [e, Tod.ticked, if_pos h]; rfl
  · rw [e, Tod.ticked, if_neg (by simp [h]), if_pos k, todTenth_eq]
    split
    · rw [raiseSource_eq]; rfl
    · rfl
  · rw [e, Tod.ticked, if_neg (by simp [h]), if_neg k]; rfl

/-- A sub-tick fires TOD exactly if it completes a tenth and the clock then equals the alarm (R210, R212). -/
theorem todTick_fired (s : State) :
    sourcesFired s (todTick s)
      (if s.cia.tod.tenthDue s.todDiv ∧ (commitBuffer s.cia.tod).clk.increment = s.cia.tod.alarm
        then Source.tod.place else 0#5) false := by
  rcases todTick_cases s with ⟨h, e⟩ | ⟨h, k, e⟩ | ⟨h, k, e⟩
  · rw [e, if_neg (by simp [Tod.tenthDue, h])]; exact sourcesFired_none rfl rfl rfl
  · rw [e, todTenth_eq]
    have hd : s.cia.tod.tenthDue s.todDiv = true := by simp [Tod.tenthDue, h, k]
    by_cases a : (committed s).cia.tod.clk.increment = (committed s).cia.tod.alarm
    · rw [if_pos a, if_pos ⟨hd, a⟩]
      exact raiseSource_sourcesFired (tenthAdvanced (committed s)) .tod
    · rw [if_neg a, if_neg (fun x => a x.2)]
      exact sourcesFired_none rfl rfl rfl
  · rw [e, if_neg (by simp [Tod.tenthDue, k])]; exact sourcesFired_none rfl rfl rfl

/-- A tick touches the clock's record, the flags and the line, and only appends to the trace. -/
theorem todTick_frame (s : State) :
    ∃ f q es, todTick s = { s with
      cia.tod := s.cia.tod.ticked s.todDiv, cia.icr.flags := f, cia.irqOut := q, trace := s.trace ++ es } := by
  have key : ∃ d f q es, todTick s = { s with
      cia.tod := d, cia.icr.flags := f, cia.irqOut := q, trace := s.trace ++ es } := by
    have plain : ∀ d : Tod, ∃ d' f q es, ({ s with cia.tod := d } : State) = { s with
        cia.tod := d', cia.icr.flags := f, cia.irqOut := q, trace := s.trace ++ es } := fun d =>
      ⟨d, s.cia.icr.flags, s.cia.irqOut, [], by simp⟩
    rcases todTick_cases s with ⟨-, e⟩ | ⟨-, -, e⟩ | ⟨-, -, e⟩
    · rw [e]; exact plain _
    · rw [e, todTenth_eq]
      split
      · rw [raiseSource_eq]; exact ⟨_, _, _, _, rfl⟩
      · exact plain _
    · rw [e]; exact plain _
  obtain ⟨d, f, q, es, h⟩ := key
  have hd : d = s.cia.tod.ticked s.todDiv := by rw [← todTick_tod, h]
  exact ⟨f, q, es, by rw [h, hd]⟩

/-! ## BCD increments on legal bytes (R193) -/

theorem bcdInc_legal_digit (v : Byte) (h : legalField .ten v = true) :
    legalField .ten (bcdInc v 0x09).1 = true ∧
      bcdNumber (bcdInc v 0x09).1 + (if (bcdInc v 0x09).2 then 10 else 0) = bcdNumber v + 1 := by
  revert v; decide

theorem bcdInc_legal_sixty (v : Byte) (h : legalField .sec v = true) :
    legalField .sec (bcdInc v 0x59).1 = true ∧
      bcdNumber (bcdInc v 0x59).1 + (if (bcdInc v 0x59).2 then 60 else 0) = bcdNumber v + 1 := by
  revert v; decide

theorem hourInc_legal (v : Byte) (h : legalField .hr v = true) :
    legalField .hr (hourInc v) = true ∧ hourNumber (hourInc v) = (hourNumber v + 1) % 24 := by
  revert v; decide

/-- The number ranges of legal fields. -/
theorem legalField_bounds (v : Byte) :
    (legalField .ten v = true → bcdNumber v < 10) ∧ (legalField .sec v = true → bcdNumber v < 60) ∧
      hourNumber v < 24 := by
  revert v; decide

end Sys2Proof.Machine
end

