-- ==== Sys2Proof/Tests/Slice0.lean ====
section
/-! SUPPORT. Tests of one step each, with values from the vectors of 95_test_vectors.md or worked by hand from the rule
named; the smoke tests of the checks; every constructor's word; and a witness for the hypotheses of each statement. -/

namespace Sys2Proof.Tests

open Sys2Proof Sys2Proof.Machine

/-! ## Checks that refuse ill-formed input (30_encoding.md R105, R108, R109) -/

theorem test_wordLegal_refuses_reserved : wordLegal 0xCA00 = false ∧ wordLegal 0xFF00 = false := by decide
theorem test_wordLegal_accepts : wordLegal 0xC9FF = true ∧ wordLegal 0xBFFF = true ∧ wordLegal 0x0000 = true := by decide
theorem test_byteInRange_refuses : (ScriptLine.store .pra 256).wf = false := by decide
theorem test_bitInRange_refuses : (ScriptLine.cnt 2).wf = false ∧ (ScriptLine.sp 2).wf = false := by decide
theorem test_addrInRange_refuses : (ScriptLine.storeAt 64 0).wf = false ∧ (ScriptLine.peekAt 64).wf = false := by decide
theorem test_halfInRange_refuses : (ScriptLine.st16Ta 65536).wf = false := by decide
theorem test_settod_refuses : (ScriptLine.settod 0 0 256 0).wf = false := by decide
theorem test_wf_accepts_boundaries :
    (ScriptLine.storeAt 63 255).wf = true ∧ (ScriptLine.st16Tb 65535).wf = true ∧ (ScriptLine.cnt 1).wf = true := by decide

/-! ## Words written out from 30_encoding.md R104, one for each constructor -/

theorem test_decode_loads :
    decode 0x0000 = .ok .ldPra ∧ decode 0x0100 = .ok .ldPrb ∧ decode 0x0200 = .ok .ldDdra ∧
    decode 0x0300 = .ok .ldDdrb ∧ decode 0x0400 = .ok .ldTalo ∧ decode 0x0500 = .ok .ldTahi ∧
    decode 0x0600 = .ok .ldTblo ∧ decode 0x0700 = .ok .ldTbhi ∧ decode 0x0800 = .ok .ldTod10 ∧
    decode 0x0900 = .ok .ldTodsec ∧ decode 0x0A00 = .ok .ldTodmin ∧ decode 0x0B00 = .ok .ldTodhr ∧
    decode 0x0C00 = .ok .ldSdr ∧ decode 0x0D00 = .ok .ldIcr ∧ decode 0x0E00 = .ok .ldCra ∧
    decode 0x0F00 = .ok .ldCrb := by decide

theorem test_decode_stores :
    decode 0x40A0 = .ok (.stPra 0xA0) ∧ decode 0x41A1 = .ok (.stPrb 0xA1) ∧ decode 0x42A2 = .ok (.stDdra 0xA2) ∧
    decode 0x43A3 = .ok (.stDdrb 0xA3) ∧ decode 0x44A4 = .ok (.stTalo 0xA4) ∧ decode 0x45A5 = .ok (.stTahi 0xA5) ∧
    decode 0x46A6 = .ok (.stTblo 0xA6) ∧ decode 0x47A7 = .ok (.stTbhi 0xA7) ∧ decode 0x48A8 = .ok (.stTod10 0xA8) ∧
    decode 0x49A9 = .ok (.stTodsec 0xA9) ∧ decode 0x4AAA = .ok (.stTodmin 0xAA) ∧ decode 0x4BAB = .ok (.stTodhr 0xAB) ∧
    decode 0x4CAC = .ok (.stSdr 0xAC) ∧ decode 0x4DAD = .ok (.stIcr 0xAD) ∧ decode 0x4EAE = .ok (.stCra 0xAE) ∧
    decode 0x4FAF = .ok (.stCrb 0xAF) := by decide

theorem test_decode_peeks :
    decode 0x8000 = .ok .pkPra ∧ decode 0x8100 = .ok .pkPrb ∧ decode 0x8200 = .ok .pkDdra ∧
    decode 0x8300 = .ok .pkDdrb ∧ decode 0x8400 = .ok .pkTalo ∧ decode 0x8500 = .ok .pkTahi ∧
    decode 0x8600 = .ok .pkTblo ∧ decode 0x8700 = .ok .pkTbhi ∧ decode 0x8800 = .ok .pkTod10 ∧
    decode 0x8900 = .ok .pkTodsec ∧ decode 0x8A00 = .ok .pkTodmin ∧ decode 0x8B00 = .ok .pkTodhr ∧
    decode 0x8C00 = .ok .pkSdr ∧ decode 0x8D00 = .ok .pkIcr ∧ decode 0x8E00 = .ok .pkCra ∧
    decode 0x8F00 = .ok .pkCrb := by decide

theorem test_decode_events :
    decode 0xC000 = .ok .phi2 ∧ decode 0xC100 = .ok .todtick ∧ decode 0xC200 = .ok (.cnt false) ∧
    decode 0xC201 = .ok (.cnt true) ∧ decode 0xC300 = .ok (.sp false) ∧ decode 0xC301 = .ok (.sp true) ∧
    decode 0xC400 = .ok .flag ∧ decode 0xC55A = .ok (.setsdr 0x5A) ∧ decode 0xC6FE = .ok (.pina 0xFE) ∧
    decode 0xC77F = .ok (.pinb 0x7F) ∧ decode 0xC800 = .ok .reset ∧ decode 0xC900 = .ok .disable := by decide

theorem test_decode_ignored_bits :
    decode 0x7E21 = .ok (.stCra 0x21) ∧ decode 0xC2FF = .ok (.cnt true) ∧ decode 0x3DFF = .ok .ldIcr ∧
    decode 0xBD12 = .ok .pkIcr ∧ decode 0xC0FF = .ok .phi2 ∧ decode 0xC955 = .ok .disable ∧
    decode 0xC8AA = .ok .reset := by decide

theorem test_decode_reserved :
    decode 0xCA00 = .error (.reservedEvent 10) ∧ decode 0xFF00 = .error (.reservedEvent 63) := by decide

theorem test_encode_canonical :
    encode (.stCra 0x11) = 0x4E11 ∧ encode .ldIcr = 0x0D00 ∧ encode .pkTahi = 0x8500 ∧
    encode (.cnt true) = 0xC201 ∧ encode (.pinb 0x80) = 0xC780 := by decide

theorem test_table_word : decodeTableWord 16 0x4E11 = some (.stCra 0x11) ∧ decodeTableWord 16 0xCA00 = none := by decide

/-! ## Small states, and one step from them -/

/-- A fresh new part with two ticks lost to the Timer B bug and a deferral of three. -/
def new : State := .resetWith ⟨.new6526A, .irq, 7, 2, 3⟩

/-- A fresh old part. -/
def old : State := .resetWith ⟨.old6526, .nmi, 0, 2, 3⟩

/-- The state one operation leaves, if it answers one. -/
def after (i : Instr) (s : State) : Option State :=
  match exec i s with
  | .next t => some t
  | .fault _ => none
  | .refused _ => none

/-- What a test looks at after one operation. -/
def shows {α : Type} (i : Instr) (s : State) (f : State → α) : Option α := (after i s).map f

/-- The byte an operation returns and the events it emits. -/
def heard (i : Instr) (s : State) : Option (Option Byte × List OutEvent) := shows i s fun t => (t.ret, t.trace)

/-! ### Ports (vectors P1, P2, P5) -/

theorem test_stDdra : heard (.stDdra 0xFF) new = some (none, [.portA 0x00]) := by decide
theorem test_stPra : heard (.stPra 0xA5) { new with cia.regs.ddra := 0x0F, cia.oldPortA := 0xF0 } = some (none, [.portA 0xF5]) := by decide
theorem test_stPra_silent : heard (.stPra 0x5A) { new with cia.regs.ddra := 0xFF, cia.regs.pra := 0x5A, cia.oldPortA := 0x5A } = some (none, []) := by decide

/-- `PRA` = $A5, low nibble driven, pins at $3C (vector P2). -/
def pins : State := { new with cia.regs.pra := 0xA5, cia.regs.ddra := 0x0F, cia.extA := 0x3C, cia.oldPortA := 0xF5 }

theorem test_ldPra : heard .ldPra pins = some (some 0x35, []) := by decide
theorem test_pkPra : heard .pkPra pins = some (some 0x35, []) := by decide
theorem test_ldDdra : heard .ldDdra pins = some (some 0x0F, []) := by decide
theorem test_pkDdra : heard .pkDdra pins = some (some 0x0F, []) := by decide
theorem test_pina : shows (.pina 0x3C) new (·.cia.extA) = some 0x3C := by decide
theorem test_pinb : shows (.pinb 0x01) { new with cia.enabled := false } (·.cia.extB) = some 0x01 := by decide
theorem test_stDdrb : heard (.stDdrb 0x01) new = some (none, [.portB 0xFE]) := by decide
theorem test_stPrb : heard (.stPrb 0x01) { new with cia.regs.ddrb := 0x01, cia.oldPortB := 0xFE } = some (none, [.portB 0xFF]) := by decide

/-- Timer A on PB6 in pulse mode with its pulse out, every pin an input at 0 (R132). -/
def pulseOnPb6 : State := { new with cia.regs.cra := 0x02, cia.ta.pulse := true, cia.ta.tog := false, cia.extB := 0x00 }

theorem test_ldPrb : heard .ldPrb pulseOnPb6 = some (some 0x40, []) := by decide
theorem test_pkPrb : heard .pkPrb { pulseOnPb6 with cia.regs.cra := 0x06 } = some (some 0x00, []) := by decide
theorem test_ldDdrb : heard .ldDdrb { new with cia.regs.ddrb := 0x81 } = some (some 0x81, []) := by decide
theorem test_pkDdrb : heard .pkDdrb { new with cia.regs.ddrb := 0x81 } = some (some 0x81, []) := by decide

/-! ### Timer registers (vectors S1, A9, A11) -/

/-- A latch of $0004 over a live count of $1203, stopped. -/
def stopped : State :=
  { new with cia.ta.latch := 0x0004, cia.ta.count := 0x1203, cia.tb.latch := 0x0004, cia.tb.count := 0x1203 }

/-- The same, both timers running. -/
def running : State := { stopped with cia.regs.cra := 0x01, cia.regs.crb := 0x01 }

theorem test_stTalo_running : shows (.stTalo 0x09) running (fun t => (t.cia.ta.latch, t.cia.ta.count)) = some (0x0009, 0x1203) := by decide
theorem test_stTalo_stopped : shows (.stTalo 0x05) stopped (fun t => (t.cia.ta.latch, t.cia.ta.count)) = some (0x0005, 0x0005) := by decide
theorem test_stTahi : shows (.stTahi 0x01) stopped (fun t => (t.cia.ta.latch, t.cia.ta.count)) = some (0x0104, 0x0104) := by decide
theorem test_stTblo : shows (.stTblo 0x09) running (fun t => (t.cia.tb.latch, t.cia.tb.count)) = some (0x0009, 0x1203) := by decide
theorem test_stTbhi : shows (.stTbhi 0x01) stopped (fun t => (t.cia.tb.latch, t.cia.tb.count)) = some (0x0104, 0x0104) := by decide
theorem test_ldTalo : heard .ldTalo stopped = some (some 0x03, []) := by decide
theorem test_ldTahi : shows .ldTahi stopped (fun t => (t.ret, t.cia.regs.tahi)) = some (some 0x12, 0x12) := by decide
theorem test_ldTblo : heard .ldTblo stopped = some (some 0x03, []) := by decide
theorem test_ldTbhi : heard .ldTbhi stopped = some (some 0x12, []) := by decide
theorem test_pkTalo : heard .pkTalo stopped = some (some 0x03, []) := by decide
theorem test_pkTahi : shows .pkTahi stopped (fun t => (t.ret, t.cia.regs.tahi)) = some (some 0x12, 0x00) := by decide
theorem test_pkTblo : heard .pkTblo stopped = some (some 0x03, []) := by decide
theorem test_pkTbhi : heard .pkTbhi stopped = some (some 0x12, []) := by decide
theorem test_stCra_forces_load : shows (.stCra 0x11) running (fun t => (t.cia.regs.cra, t.cia.ta.count)) = some (0x01, 0x0004) := by decide
theorem test_stCra_arms_delay : shows (.stCra 0x09) old (fun t => (t.cia.regs.cra, t.cia.ta.delay)) = some (0x09, 1) := by decide
theorem test_stCrb_takes_pin : heard (.stCrb 0x03) new = some (none, [.portB 0x7F]) := by decide
theorem test_stCrb_marks_restart : shows (.stCrb 0x11) running (fun t => (t.cia.tbRestart, t.cia.tb.count)) = some (true, 0x0004) := by decide
theorem test_ldCra : heard .ldCra { new with cia.regs.cra := 0x2D } = some (some 0x2D, []) := by decide
theorem test_pkCra : heard .pkCra { new with cia.regs.cra := 0x2D } = some (some 0x2D, []) := by decide
theorem test_ldCrb : heard .ldCrb { new with cia.regs.crb := 0x6F } = some (some 0x6F, []) := by decide
theorem test_pkCrb : heard .pkCrb { new with cia.regs.crb := 0x6F } = some (some 0x6F, []) := by decide

/-! ### Clock cycles and edges of CNT (vectors A5, A8, A12, A13, S4) -/

/-- A one-shot Timer A with one tick to go. -/
def lastTick : State := { new with cia.regs.cra := 0x09, cia.ta.latch := 0x0005, cia.ta.count := 0x0001, cia.icr.mask := 0x01 }

theorem test_phi2_one_shot :
    shows .phi2 lastTick (fun t => (t.cia.ta.count, t.cia.regs.cra, t.cia.icr.flags, t.trace)) =
      some (0x0005, 0x08, 0x081, [.irqLine .irq 7 true]) := by decide

/-- Timer A underflows in the cycle that restarts Timer B: two ticks to lose, one of them at once (A8). -/
theorem test_phi2_timer_b_bug :
    shows .phi2 { new with
        cia.regs.cra := 0x01, cia.ta.count := 0x0001, cia.ta.latch := 0x0003,
        cia.regs.crb := 0x01, cia.tb.count := 0x0005, cia.tbRestart := true }
      (fun t => (t.cia.tb.count, t.cia.tb.skip, t.cia.icr.flags)) = some (0x0005, 1, 0x101) := by decide

theorem test_cnt_rising :
    shows (.cnt true) { new with cia.cnt := false, cia.regs.crb := 0x21, cia.tb.latch := 0x0002, cia.tb.count := 0x0001 }
      (fun t => (t.cia.tb.count, t.cia.icr.flags)) = some (0x0002, 0x002) := by decide

theorem test_cnt_no_edge :
    shows (.cnt true) { new with cia.regs.cra := 0x21, cia.ta.count := 0x0002 } (fun t => (t.cia.ta.count, t.cia.cnt)) =
      some (0x0002, true) := by decide

/-! ### Time of day (vectors T4, T7, T8, T9, S7, PR3) -/

/-- 11:59:59.9 AM, running, the next tick completes a tenth. -/
def beforeNoon : State :=
  { new with cia.tod.clk := ⟨0x11, 0x59, 0x59, 0x09⟩, cia.tod.stopped := false, cia.tod.ticks := 5 }

/-- A held 02:10:20.3 over a clock that has gone on. -/
def held : State := { beforeNoon with cia.tod.latched := true, cia.tod.snap := ⟨0x02, 0x10, 0x20, 0x03⟩ }

theorem test_todtick_noon : shows .todtick beforeNoon (·.cia.tod.clk) = some ⟨0x92, 0x00, 0x00, 0x00⟩ := by decide
theorem test_todtick_alarm :
    shows .todtick { beforeNoon with cia.tod.alarm := ⟨0x92, 0, 0, 0⟩, cia.icr.mask := 0x04 }
      (fun t => (t.cia.icr.flags, t.trace)) = some (0x084, [.irqLine .irq 7 true]) := by decide
theorem test_stTod10_starts : shows (.stTod10 0x0A) new (fun t => (t.cia.tod.stopped, t.cia.tod.clk.ten)) = some (false, 0x0A) := by decide
theorem test_stTodsec_alarm :
    shows (.stTodsec 0x20) { new with cia.regs.crb := 0x80 } (fun t => (t.cia.tod.alarm.sec, t.cia.tod.clk.sec)) =
      some (0x20, 0x00) := by decide
theorem test_stTodmin_buffered :
    shows (.stTodmin 0x45) held (fun t => (t.cia.tod.wbuf.min, t.cia.tod.wmask, t.cia.tod.clk.min)) =
      some (0x45, 0x4, 0x59) := by decide
theorem test_stTodhr_stops :
    shows (.stTodhr 0x03) beforeNoon (fun t => (t.cia.tod.stopped, t.cia.tod.ticks, t.cia.tod.clk.hr)) =
      some (true, 0, 0x03) := by decide
theorem test_ldTod10_releases : shows .ldTod10 held (fun t => (t.ret, t.cia.tod.latched)) = some (some 0x03, false) := by decide
theorem test_ldTodsec : heard .ldTodsec held = some (some 0x20, []) := by decide
theorem test_ldTodmin : heard .ldTodmin beforeNoon = some (some 0x59, []) := by decide
theorem test_ldTodhr_holds :
    shows .ldTodhr beforeNoon (fun t => (t.ret, t.cia.tod.latched, t.cia.tod.snap.min)) = some (some 0x11, true, 0x59) := by decide
theorem test_ldTodhr_keeps : shows .ldTodhr held (fun t => (t.ret, t.cia.tod.snap.sec)) = some (some 0x02, 0x20) := by decide
theorem test_pkTod10_keeps : shows .pkTod10 held (fun t => (t.ret, t.cia.tod.latched)) = some (some 0x03, true) := by decide
theorem test_pkTodsec : heard .pkTodsec held = some (some 0x20, []) := by decide
theorem test_pkTodmin : heard .pkTodmin beforeNoon = some (some 0x59, []) := by decide
theorem test_pkTodhr : shows .pkTodhr beforeNoon (fun t => (t.ret, t.cia.tod.latched)) = some (some 0x11, false) := by decide
/-- Log entry 14: the hours of the reset alarm are no hour of a legal clock. -/
theorem test_reset_alarm_hours_illegal :
    legalField .hr State.reset.cia.tod.alarm.hr = false ∧ State.reset.cia.tod.clk.legal = true := by decide
theorem test_increment_raw : (⟨0x92, 0x00, 0x00, 0x19⟩ : TodTime).increment = ⟨0x92, 0x00, 0x00, 0x20⟩ := by decide
theorem test_increment_raw_minutes : (⟨0x00, 0xF9, 0x59, 0x09⟩ : TodTime).increment = ⟨0x00, 0x00, 0x00, 0x00⟩ := by decide

/-! ### Serial port (vectors S5, Q3, Q4, Q5) -/

/-- Output mode, a byte in flight with seven bits out and Timer A about to underflow. -/
def lastBitOut : State :=
  { new with
    cia.regs.cra := 0x41, cia.regs.sdr := 0xA5, cia.ta.latch := 0x0001, cia.ta.count := 0x0001,
    cia.sdr.shifter := 0x1E00, cia.sdr.bits := 7, cia.sdr.inflight := true }

theorem test_stSdr_defers : shows (.stSdr 0xA5) lastBitOut (fun t => (t.cia.sdr.valid, t.cia.sdr.delay)) = some (true, 3) := by decide
theorem test_stSdr_input : shows (.stSdr 0xA5) new (fun t => (t.cia.regs.sdr, t.cia.sdr.valid)) = some (0xA5, false) := by decide
theorem test_ldSdr : heard .ldSdr lastBitOut = some (some 0xA5, []) := by decide
theorem test_pkSdr : heard .pkSdr lastBitOut = some (some 0xA5, []) := by decide
theorem test_sp : shows (.sp false) new (·.cia.sp) = some false := by decide
theorem test_setsdr : shows (.setsdr 0xA5) { new with cia.icr.mask := 0x08 } (fun t => (t.cia.regs.sdr, t.cia.icr.flags, t.trace)) = some (0xA5, 0x088, [.irqLine .irq 7 true]) := by decide
theorem test_setsdr_output : shows (.setsdr 0x11) lastBitOut (·.cia.regs.sdr) = some 0xA5 := by decide
theorem test_phi2_last_bit :
    shows .phi2 lastBitOut (fun t => (t.cia.sdr.inflight, t.cia.icr.flags, t.trace)) =
      some (false, 0x009, [.countPin false, .serialPin false, .countPin true]) := by decide
theorem test_cnt_eighth_bit_in :
    shows (.cnt true) { new with cia.cnt := false, cia.sdr.shifter := 0x0061, cia.sdr.bits := 7 }
      (fun t => (t.cia.regs.sdr, t.cia.sdr.bits, t.cia.icr.flags)) = some (0xC3, 0, 0x008) := by decide

/-! ### Interrupts and system (vectors I1, I3, S6, Y1, Y2) -/

theorem test_stIcr_clears : shows (.stIcr 0x05) { new with cia.icr.mask := 0x1F } (·.cia.icr.mask) = some 0x1A := by decide
theorem test_stIcr_asserts : heard (.stIcr 0x90) { new with cia.icr.flags := 0x010 } = some (none, [.irqLine .irq 7 true]) := by decide
theorem test_ldIcr :
    shows .ldIcr { new with cia.icr.mask := 0x01, cia.icr.flags := 0x181, cia.irqOut := true }
      (fun t => (t.ret, t.cia.icr, t.trace)) = some (some 0x81, ⟨0x01, 0x000⟩, [.irqLine .irq 7 false]) := by decide
theorem test_pkIcr : shows .pkIcr { new with cia.icr.flags := 0x101 } (fun t => (t.ret, t.cia.icr.flags)) = some (some 0x01, 0x101) := by decide
theorem test_flag : shows .flag { new with cia.icr.mask := 0x0F } (fun t => (t.cia.icr.flags, t.trace)) = some (0x010, []) := by decide
theorem test_reset :
    heard .reset { new with cia.irqOut := true, cia.oldPortA := 0, cia.oldPortB := 0, cia.spOut := false } =
      some (none, [.irqLine .irq 7 false, .portA 0xFF, .portB 0xFF, .serialPin true]) := by decide
theorem test_reset_enables : shows .reset { lastTick with cia.enabled := false } (·.cia) = some Cia.reset := by decide
theorem test_disable : shows .disable new (·.cia.enabled) = some false := by decide
theorem test_construct_refuses_tag : construct "6526" .irq 0 0 0 = .error (.invalidModelTag "6526") := by decide

/-! ### The step, the bus and script lines -/

/-- A step from nothing pending stands still, one from `ST.CRA $11` runs it, one from a reserved word is refused. -/
theorem test_step_idle : step new = .next new := rfl
theorem test_step_runs : step (new.withFetchWord 16 0x4E11) = exec (.stCra 0x11) new := rfl
theorem test_step_refuses : step (new.withFetchWord 16 0xCA00) = .refused (.reservedWord 0xCA00) := rfl
theorem test_bus_address_mask : memWrite 0x12 0xF0 new = exec (.stDdra 0xF0) new ∧ memPeek 0x32 new = exec .pkDdra new := ⟨rfl, rfl⟩
theorem test_line_store : readLine "ST.CRA $11 ; start" = some [.store .cra 0x11] := by decide
theorem test_line_address : readLine "ST @$12 $F0" = some [.storeAt 0x12 0xF0] := by decide
theorem test_line_repeat : readLine "PHI2*20" = some [.phi2 20] ∧ readLine "CNTPULSE" = some [.cntpulse 1] := by decide
theorem test_line_refused : readLine "ST.CRA $100" = none ∧ readLine "CNT 2" = none ∧ readLine "; note" = some [] := by decide
theorem test_line_words :
    lineWords (.storeAt 0x3E 0x21) = [0x7E21] ∧ lineWords (.st16Ta 0x0003) = [0x4403, 0x4500] ∧
    lineWords (.settod 0x12 0 0 1) = [0x4B12, 0x4A00, 0x4900, 0x4801] ∧ lineWords .rdtod = [0x0B00, 0x0A00, 0x0900, 0x0800] ∧
    lineWords (.cntpulse 1) = [0xC200, 0xC201] := by decide

/-! ## Witnesses: a state and operands that meet the hypotheses of each statement -/

/-- The two ends of the legal words, and the two of the reserved ones. -/
theorem witness_EncodeKeepsSignificantBits : decode 0x0000 = .ok .ldPra ∧ decode 0xC9FF = .ok .disable := by decide
theorem witness_ReservedWordsRefused :
    ({ new with script := [0xCA00, 0x0D00] } : State).script = 0xCA00 :: [0x0D00] ∧ 0xCA00 ≤ (0xCA00 : Word).toNat ∧
    ({ new with script := [0xFFFF] } : State).script = 0xFFFF :: [] ∧ 0xCA00 ≤ (0xFFFF : Word).toNat := by decide
theorem witness_DecodeByMatchAndMask :
    (0x7E21 : Word) &&& 0xCF00 = (1 <<< 14) ||| (Reg.offset .cra).setWidth 16 <<< 8 ∧
    (0xC955 : Word) &&& 0xFF00 = 0xC000 ||| (9 : BitVec 6).setWidth 16 <<< 8 ∧
    (0xC9FF : Word) &&& rowMask .disable = rowMatch .disable := by decide
theorem witness_StepRunsPendingOperation :
    ({ new with script := [0x4E11] } : State).script = 0x4E11 :: [] ∧ decode 0x4E11 = .ok (.stCra 0x11) ∧
    decodeTableWord 16 0xC900 = some .disable ∧ new.script = [] := by decide
theorem witness_ConstructionChecksModel : "OLD_6526A" ≠ "OLD_6526" ∧ "OLD_6526A" ≠ "NEW_6526A" := by decide
theorem witness_DisabledBlockIsPassive :
    ({ lastTick with cia.enabled := false } : State).cia.enabled = false ∧
    frozenWhenDisabled .phi2 = true ∧ frozenWhenDisabled .todtick = true ∧ frozenWhenDisabled .flag = true ∧
    frozenWhenDisabled (.setsdr 0xFF) = true := by decide

/-- `lastTick` with one pending `PHI2` meets every invariant, and its step raises an interrupt. -/
def pending : State := lastTick.withFetchWord 16 0xC000

theorem witness_invariants :
    pending.inv = true ∧ pending.cia.lineIsIr = true ∧ pending.outputsMirrorTrace = true ∧ pending.portsPresented = true := by
  decide
theorem witness_StepKeepsStateInvariant : ∃ t, pending.inv = true ∧ step pending = .next t :=
  ⟨_, witness_invariants.1, rfl⟩
theorem witness_StepKeepsOutputsMirrored :
    ∃ t, pending.cia.lineIsIr = true ∧ pending.outputsMirrorTrace = true ∧ pending.irqEventsNamed = true ∧
      step pending = .next t :=
  ⟨_, witness_invariants.2.1, witness_invariants.2.2.1, by decide, rfl⟩
theorem witness_StepKeepsPortsPresented : ∃ t, pending.portsPresented = true ∧ step pending = .next t :=
  ⟨_, witness_invariants.2.2.2, rfl⟩
theorem witness_LegalStoresKeepClockLegal :
    ∃ t, beforeNoon.cia.tod.legal = true ∧ legalTodStore (.stTodhr 0x92) = true ∧ exec (.stTodhr 0x92) beforeNoon = .next t :=
  ⟨_, by decide, by decide, rfl⟩

/-- The run of log entry 5: a one-shot Timer B, restarted, underflows on an edge of CNT in the same cycle, and Timer A
underflows in the `PHI2` that ends it. Only operations of the block, from its reset. -/
theorem test_skip_clause_broken_from_reset :
    (match execList [.stTalo 1, .stTahi 0, .stTblo 1, .stTbhi 0, .cnt false, .stCra 0x01, .stCrb 0x29, .cnt true, .phi2] new with
      | .next t => (t.inv, t.cia.stoppedHasNoSkip)
      | .fault _ => (true, true)
      | .refused _ => (true, true)) = (true, false) := by decide

/-- A fresh instance of either part with a loss, and a restart in the cycle that the second clause does not find. -/
theorem witness_SkipClauseNotKept :
    0 < new.cfg.tbBugLoss ∧ 0 < old.cfg.tbBugLoss ∧
    ∃ t, pending.cia.stoppedHasNoSkip = true ∧ pending.cia.tbRestart = false ∧ step pending = .next t :=
  ⟨by decide, by decide, _, by decide, by decide, rfl⟩
theorem witness_SkipClauseNotKept_restarted :
    ∃ t, ({ pending with cia.regs.crb := 0x01, cia.tbRestart := true } : State).cia.stoppedHasNoSkip = true ∧
      ({ pending with cia.regs.crb := 0x01, cia.tbRestart := true } : State).started .b = true ∧
      step { pending with cia.regs.crb := 0x01, cia.tbRestart := true } = .next t :=
  ⟨_, by decide, by decide, rfl⟩

theorem witness_OnlyAcknowledgeClearsFlags :
    ∃ t, Instr.phi2 ≠ .ldIcr ∧ Instr.phi2 ≠ .reset ∧ exec .phi2 lastTick = .next t := ⟨_, by decide, by decide, rfl⟩
theorem witness_MaskEnableAndPinsHaveOneWriter :
    ∃ t, Instr.disable ≠ .reset ∧ exec .disable lastTick = .next t ∧ (∀ v, Instr.disable ≠ .stIcr v) ∧
      (∀ v, Instr.disable ≠ .pina v) ∧ (∀ v, Instr.disable ≠ .pinb v) ∧ (∀ b, Instr.disable ≠ .sp b) ∧
      (∀ b, Instr.disable ≠ .cnt b) := by
  refine ⟨_, by decide, rfl, ?_, ?_, ?_, ?_, ?_⟩ <;> (intro _ h; cases h)
theorem witness_OnlyAlarmStoresWriteAlarm :
    ∃ t, Instr.stTodsec 0x20 ≠ .reset ∧ exec (.stTodsec 0x20) { new with cia.regs.crb := 0x80 } = .next t ∧
      t.cia.tod.alarm ≠ new.cia.tod.alarm := ⟨_, by decide, rfl, by decide⟩
theorem witness_StoppedTimerKeepsCount :
    ∃ t, exec .phi2 stopped = .next t ∧ stopped.started .a = false ∧ stopped.started .b = false ∧
      (∀ v, Instr.phi2 ≠ .stTalo v ∧ Instr.phi2 ≠ .stTahi v ∧ Instr.phi2 ≠ .stCra v) :=
  ⟨_, rfl, by decide, by decide, fun _ => ⟨by simp, by simp, by simp⟩⟩

/-- Two states that differ in the shadow of the timers, in the shifter's high bits and in the trace. -/
theorem witness_IndistinctRunsAgree :
    State.indistinct lastBitOut
      { lastBitOut with cia.regs.talo := 0x77, cia.sdr.shifter := 0xFE00, trace := [.portA 0x00] } ∧
    ([.phi2, .ldTalo] : List Instr) ≠ [] := by
  exact ⟨⟨rfl, by decide⟩, by decide⟩

theorem witness_PortBytesBitByBit : 0 < 8 ∧ 6 < 8 ∧ 7 < 8 ∧ pulseOnPb6.cia.regs.cra.getLsbD 1 = true := by decide

/-- Enabled, both timers started with one tick to go, Timer B fed by Timer A. -/
def cascade : State :=
  { lastTick with cia.regs.crb := 0x41, cia.tb.count := 0x0001, cia.tb.latch := 0x0003 }

theorem witness_ClockCycle :
    cascade.cia.enabled = true ∧ cascade.phi2CountsA = true ∧ cascade.cia.ta.atEnd = true ∧
    cascade.phi2AcceptsB true = true ∧ cascade.underflowsB true true = true := by decide
theorem witness_CountPinRecordsLevel :
    ({ new with cia.enabled := false } : State).cia.enabled = false ∧ new.cia.cnt = true ∧ (false : Bool) = false := by decide

/-- The same fed by CNT, with CNT low. -/
def cascadeCnt : State := { cascade with cia.regs.cra := 0x29, cia.regs.crb := 0x61, cia.cnt := false }

theorem witness_CountPinEdge :
    cascadeCnt.cia.enabled = true ∧ cascadeCnt.cia.cnt = false ∧ cascadeCnt.cntCountsA = true ∧
    cascadeCnt.cia.ta.atEnd = true ∧ cascadeCnt.cntAcceptsB true = true := by decide

/-- The least and the greatest count, of Timer A. -/
theorem witness_TimerUnderflowsOnNthTick :
    lastTick.cia.enabled = true ∧ lastTick.phi2CountsA = true ∧ lastTick.cia.ta.count.toNat = 1 ∧ 0 < 1 ∧
    ({ lastTick with cia.ta.count := 0xFFFF } : State).phi2CountsA = true ∧
    ({ lastTick with cia.ta.count := 0xFFFF } : State).cia.ta.count.toNat = 65535 := by decide

/-- Timer B about to underflow, and one with the greatest count. -/
def lastTickB : State := { lastTick with cia.regs.crb := 0x09, cia.tb.count := 0x0001 }

theorem witness_TimerUnderflowsOnNthTick_b :
    lastTickB.cia.enabled = true ∧ lastTickB.inmodeB = 0#2 ∧ lastTickB.phi2AcceptsB false = true ∧
    lastTickB.cia.tb.skip = 0 ∧ lastTickB.cia.tbRestart = false ∧ lastTickB.cia.tb.count.toNat = 1 ∧ 0 < 1 ∧
    ({ lastTickB with cia.tb.count := 0xFFFF } : State).phi2AcceptsB false = true ∧
    ({ lastTickB with cia.tb.count := 0xFFFF } : State).cia.tb.count.toNat = 65535 := by decide

theorem witness_TodStores :
    ({ new with cia.regs.crb := 0x80 } : State).cia.regs.crb.getLsbD 7 = true ∧ held.cia.regs.crb.getLsbD 7 = false ∧
    held.cia.tod.latched = true ∧ beforeNoon.cia.tod.latched = false := by decide
theorem witness_HoldSurvivesOtherOperations :
    ∃ t, held.cia.tod.latched = true ∧ (∀ i, i ∈ ([.todtick, .ldTodhr, .stTodmin 0x45] : List Instr) → i ≠ .ldTod10 ∧ i ≠ .reset) ∧
      execList [.todtick, .ldTodhr, .stTodmin 0x45] held = .next t := ⟨_, by decide, by decide, rfl⟩
theorem witness_TodTickAdvancesClock :
    beforeNoon.cia.enabled = true ∧ beforeNoon.todDiv = beforeNoon.cia.tod.ticks + 1 ∧ new.cia.tod.stopped = true := by decide

/-- The first and the last tenth of the day. -/
theorem witness_IncrementAddsOneTenth :
    (⟨0x12, 0x00, 0x00, 0x00⟩ : TodTime).legal = true ∧ (⟨0x91, 0x59, 0x59, 0x09⟩ : TodTime).legal = true ∧
    (⟨0x12, 0x00, 0x00, 0x00⟩ : TodTime).tenths = 0 ∧ (⟨0x91, 0x59, 0x59, 0x09⟩ : TodTime).tenths = 863999 := by decide
theorem witness_HostSerialByte :
    (new.cia.enabled && !new.cia.regs.cra.getLsbD 6 && !new.cia.sdr.forceFinish) = true ∧
    (lastBitOut.cia.enabled && !lastBitOut.cia.regs.cra.getLsbD 6 && !lastBitOut.cia.sdr.forceFinish) = false := by decide

/-- `lastBitOut` clocked by CNT, its byte force-finished. -/
def lastBitForced : State :=
  { lastBitOut with cia.regs.cra := 0x21, cia.cnt := false, cia.sdr.forceFinish := true }

theorem witness_UnderflowShiftsBitOut :
    lastBitOut.cia.enabled = true ∧ lastBitOut.underflowsA .phi2 = true ∧ lastBitOut.serialIn = false ∧
    lastBitOut.cia.sdr.inflight = true ∧ lastBitOut.cia.sdr.bits = 7 ∧
    lastBitForced.underflowsA (.cnt true) = true ∧ lastBitForced.serialIn = false ∧
    ({ lastBitOut with cia.sdr.bits := 0 } : State).cia.sdr.bits ≠ 7 := by decide

/-- `lastBitOut` with the next byte queued, its deferral ending in this cycle. -/
def lastBitQueued : State := { lastBitOut with cia.sdr.valid := true, cia.sdr.delay := 1 }

theorem witness_UnderflowShiftsBitOut_reload :
    lastBitQueued.cia.enabled = true ∧ lastBitQueued.underflowsA .phi2 = true ∧ lastBitQueued.serialIn = false ∧
    lastBitQueued.cia.sdr.inflight = true ∧ lastBitQueued.cia.sdr.bits = 7 ∧
    lastBitQueued.cia.sdr.forceFinish = false ∧ lastBitQueued.cia.sdr.valid = true ∧
    lastBitQueued.sdrDelayIn .phi2 = 0 := by decide

/-- Log entry 15: a store under force-finish over a queued byte, and the return to output mode with it queued. -/
def queuedForced : State := { lastBitQueued with cia.regs.cra := 0x01, cia.sdr.forceFinish := true }

theorem test_stSdr_force_finish :
    shows (.stSdr 0x3C) queuedForced (fun t => (t.cia.regs.sdr, t.cia.sdr.valid, t.cia.sdr.delay)) =
      some (0x3C, true, 1) := by decide
theorem test_stCra_resumes_queue :
    shows (.stCra 0x41) queuedForced (fun t => (t.cia.sdr.forceFinish, t.cia.sdr.valid, t.cia.sdr.bits)) =
      some (false, true, 7) := by decide

/-- A byte queued and due, none in flight. -/
def queued : State := { lastBitOut with cia.sdr.bits := 0, cia.sdr.inflight := false, cia.sdr.valid := true, cia.sdr.delay := 1 }

theorem witness_UnderflowStartsQueuedByte :
    queued.cia.enabled = true ∧ queued.underflowsA .phi2 = true ∧ queued.serialIn = false ∧
    queued.cia.sdr.inflight = false ∧ queued.cia.sdr.valid = true ∧ queued.sdrDelayIn .phi2 = 0 := by decide
theorem witness_SerialPortStandsStill :
    (new.cia.enabled = true ∧ new.underflowsA .phi2 = false) ∧ lastTick.serialIn = true ∧
    ({ queued with cia.sdr.delay := 2 } : State).sdrDelayIn .phi2 ≠ 0 ∧
    (queued.serialIn = false ∧ queued.underflowsA (.cnt true) = false) := by decide
theorem witness_CountPinEdgeShiftsIn :
    cascadeCnt.cia.enabled = true ∧ cascadeCnt.cia.cnt = false ∧ cascadeCnt.serialIn = true := by decide
theorem witness_ByteArrivesMsbFirst :
    cascadeCnt.cia.enabled = true ∧ cascadeCnt.serialIn = true ∧ cascadeCnt.cia.sdr.bits = 0 ∧ 0 ≤ 8 ∧ 8 ≤ 8 := by decide
theorem witness_ByteLeavesMsbFirst : 1 ≤ 1 ∧ 1 ≤ 8 ∧ 8 ≤ 8 := by decide
theorem witness_SerialModeSwitch :
    lastBitOut.cia.regs.cra.getLsbD 6 = true ∧ (0x01 : Byte).getLsbD 6 = false ∧
    lastBitForced.cia.regs.cra.getLsbD 6 = false ∧ (0x41 : Byte).getLsbD 6 = true := by decide
theorem witness_MaskStoreSetsOrClears : 0 < 5 ∧ 4 < 5 := by decide
theorem witness_FlagEdgeLatchesFlg : new.cia.enabled = true := by decide

end Sys2Proof.Tests
end

section
/-! SUPPORT. What an operation can do to the block, said once: every operation but `RESET` is a run of elementary moves
after its own effect on the clock. An invariant of all steps is then checked move by move. -/

namespace Sys2Proof.Machine

/-! ## Elementary moves -/

/-- The part of a state that the moves are about: the two control bytes, the timers' delays, the Timer B bug, the clock,
the serial port, the flags, the outputs, the parameters and the trace. -/
def State.core (s : State) : State :=
  { cia := { Cia.reset with
      regs := { Regs.zero with cra := s.cia.regs.cra, crb := s.cia.regs.crb }
      ta := { Timer.reset with delay := s.cia.ta.delay }
      tb := { toTimer := { Timer.reset with delay := s.cia.tb.delay }, skip := s.cia.tb.skip }
      tbRestart := s.cia.tbRestart, tod := s.cia.tod, sdr := s.cia.sdr
      icr := { mask := 0, flags := s.cia.icr.flags }, irqOut := s.cia.irqOut
      oldPortA := s.cia.oldPortA, oldPortB := s.cia.oldPortB, spOut := s.cia.spOut, cntOut := s.cia.cntOut }
    cfg := s.cfg, script := [], trace := s.trace, ret := none }

/-- What a procedure of the serial port may make of its record, `c` before and `d` after: the bit counter stays in
range, force-finish is not taken up and keeps its byte, and the deferral goes down or is armed within `limit`. -/
def Sdr.follows (limit : Nat) (c d : Sdr) : Prop :=
  (c.bits ≤ 7 → d.bits ≤ 7) ∧
  (d.forceFinish = true → c.forceFinish = true ∧ (c.inflight = true → d.inflight = true)) ∧
  (d.delay ≤ c.delay ∨ d.delay ≤ limit)

/-- The two halves of an operation: Timer A's part, which alone may charge Timer B with lost ticks, and the rest
(41_timers.md R170, R171: Timer A comes before Timer B). -/
inductive Phase where
  | a
  | b

/-- The elementary moves of the block. -/
inductive Move : Phase → State → State → Prop
  /-- nothing of the core changes -/
  | quiet {p : Phase} {s t : State} (h : t.core = s.core) : Move p s t
  | portA (s : State) : Move .b s (updatePortA s)
  | portB (s : State) : Move .b s (updatePortB s)
  | spPin {p : Phase} (s : State) (b : Bool) : Move p s (emitSp s b)
  | cntPin {p : Phase} (s : State) (b : Bool) : Move p s (emitCnt s b)
  | latch {p : Phase} (s : State) (src : Source) : Move p s { s with cia.icr.flags := s.cia.icr.flags ||| src.bit }
  | evaluate {p : Phase} (s : State) : Move p s (evaluateIrq s)
  | acknowledge (s : State) : Move .b s (releaseIrq s)
  | serial {p : Phase} (s : State) {d : Sdr} (h : s.cia.sdr.follows s.cfg.sdrDelay d) :
      Move p s { s with cia.sdr := d }
  | storeCra (s : State) (v : Byte) :
      Move .b s (sdrModeChange ((s.reg .cra).getLsbD 6) (v.getLsbD 6) (controlStored .a v s))
  | storeCrb (s : State) (v : Byte) : Move .b s (restartMarked (s.reg .crb) v (controlStored .b v s))
  | waitA (s : State) : Move .a s { s with cia.ta.delay := s.cia.ta.delay - 1 }
  | waitB (s : State) : Move .b s { s with cia.tb.delay := s.cia.tb.delay - 1 }
  | stopA (s : State) : Move .a s (oneShotStopA s)
  | chargeB (s : State) : Move .a s (tbBugCheck s)
  | stopB (s : State) : Move .b s (oneShotStopB s)
  | loseTick (s : State) : Move .b s { s with cia.tb.skip := s.cia.tb.skip - 1 }
  | cycleOver (s : State) : Move .b s { s with cia.tbRestart := false }

/-- Any number of moves of one phase. -/
abbrev Moves (p : Phase) : State → State → Prop := Relation.ReflTransGen (Move p)

theorem moves_keep {p : Phase} {P : State → Prop} (hm : ∀ s t, Move p s t → P s → P t) {s t : State}
    (h : Moves p s t) (hs : P s) : P t := by
  induction h with
  | refl => exact hs
  | tail _ hlast ih => exact hm _ _ hlast ih

theorem moves_of_core_eq {p : Phase} {s t : State} (h : t.core = s.core) : Moves p s t := .single (.quiet h)

/-- Moves may begin at any state with the same core. -/
theorem moves_after {p : Phase} {s u t : State} (hm : Moves p u t) (h : u.core = s.core) : Moves p s t :=
  .head (.quiet h) hm

/-! ## The procedures as moves -/

theorem raiseSource_moves {p : Phase} (src : Source) (s : State) : Moves p s (raiseSource src s) :=
  .tail (.single (.latch s src)) (.evaluate _)

theorem drivePins_moves {p : Phase} (s : State) (b : Bool) : Moves p s (drivePins s b) :=
  .tail (.tail (.single (.cntPin s false)) (.spPin _ b)) (.cntPin _ true)

theorem Sdr.follows_completed (limit : Nat) (d : Sdr) (queued : Byte) : d.follows limit (d.completed queued) := by
  unfold Sdr.completed
  split
  · exact ⟨fun _ => by simp, fun h => by simp at h, .inl (Nat.zero_le _)⟩
  · next hf => split <;> exact ⟨fun _ => by simp, fun h => absurd h hf, .inl le_rfl⟩

theorem completeOutput_moves {p : Phase} (s : State) : Moves p s (completeOutput s) := by
  have hd : (raiseSource .sdr s).cia.sdr.follows (raiseSource .sdr s).cfg.sdrDelay
      (s.cia.sdr.completed s.cia.regs.sdr) := by
    rw [raiseSource_eq]
    exact Sdr.follows_completed _ _ _
  rw [completeOutput_eq]
  exact .tail (raiseSource_moves .sdr s) (.serial _ hd)

theorem countShiftOut_moves {p : Phase} (s : State) : Moves p s (countShiftOut s) := by
  unfold countShiftOut
  split
  · exact completeOutput_moves s
  · next h => exact .single (.serial s ⟨fun hb => by simp only; omega, fun hf => ⟨hf, id⟩, .inl le_rfl⟩)

theorem shiftOut_moves {p : Phase} (s : State) : Moves p s (shiftOut s) := by
  have hshift : Moves p s { s with cia.sdr.shifter := s.cia.sdr.shifter <<< 1 } :=
    .single (.serial s ⟨id, fun hf => ⟨hf, id⟩, .inl le_rfl⟩)
  exact (hshift.trans (drivePins_moves _ _)).trans (countShiftOut_moves _)

theorem sdrClock_moves {p : Phase} (s : State) : Moves p s (sdrClock s) := by
  rcases sdrClock_cases s with ⟨-, -, e⟩ | ⟨-, ⟨-, e⟩ | ⟨-, -, e⟩ | ⟨-, -, e⟩⟩ <;> rw [e]
  · exact shiftOut_moves s
  · have hload : Moves p s (loadShifter s) :=
      .single (.serial s ⟨fun _ => by simp, fun hf => ⟨hf, fun _ => rfl⟩, .inl le_rfl⟩)
    exact hload.trans (shiftOut_moves _)

theorem sdrShiftIn_moves {p : Phase} (s : State) : Moves p s (sdrShiftIn s) := by
  have hport {s : State} {x : Half} {n : Nat} (hn : s.cia.sdr.bits ≤ 7 → n ≤ 7) :
      Moves p s { s with cia.sdr.shifter := x, cia.sdr.bits := n } :=
    .single (.serial s ⟨hn, fun hf => ⟨hf, id⟩, .inl le_rfl⟩)
  rw [sdrShiftIn_eq]
  split
  · exact (hport fun _ => Nat.zero_le _).trans (moves_after (raiseSource_moves .sdr _) rfl)
  · next h => exact hport fun hb => by omega

theorem underflowA_moves (s : State) : Moves .a s (underflowA s) := by
  have hbase : Moves .a s (underflowABase s) :=
    moves_after (.tail (.head (.stopA (s.setTimer .a s.cia.ta.reload)) (raiseSource_moves .ta _)) (.chargeB _)) rfl
  exact hbase.trans (sdrClock_moves _)

theorem underflowB_moves (s : State) : Moves .b s (underflowB s) :=
  moves_after (.head (.stopB (s.setTimer .b s.cia.tb.toTimer.reload)) (raiseSource_moves .tb _)) rfl

theorem countA_moves (s : State) : Moves .a s (countA s).1 := by
  rcases countA_cases s with ⟨-, e⟩ | ⟨-, e⟩ <;> rw [e]
  · exact moves_after (underflowA_moves _) rfl
  · exact moves_of_core_eq rfl

theorem countB_moves (s : State) : Moves .b s (countB s) := by
  rcases countB_cases s with ⟨-, e⟩ | ⟨-, -, e⟩ | ⟨-, -, e⟩ <;> rw [e]
  · exact .single (.loseTick s)
  · exact moves_after (underflowB_moves _) rfl
  · exact moves_of_core_eq rfl

theorem phi2TimerA_moves (s : State) : Moves .a s (phi2TimerA s).1 := by
  rcases phi2TimerA_cases s with ⟨-, e⟩ | ⟨-, -, -, e⟩ | ⟨-, -, e⟩ <;> rw [e]
  · exact countA_moves s
  · exact .single (.waitA s)

theorem phi2TimerB_moves (uA : Bool) (s : State) : Moves .b s (phi2TimerB uA s) := by
  rcases phi2TimerB_cases uA s with ⟨-, e⟩ | ⟨-, -, -, e⟩ | ⟨-, -, e⟩ <;> rw [e]
  · exact countB_moves s
  · exact .single (.waitB s)

theorem cntTimerA_moves (s : State) : Moves .a s (cntTimerA s).1 := by
  rcases cntTimerA_cases s with ⟨-, e⟩ | ⟨-, e⟩ <;> rw [e]
  exact countA_moves s

theorem cntTimerB_moves (uA : Bool) (s : State) : Moves .b s (cntTimerB uA s) := by
  rcases cntTimerB_cases uA s with ⟨-, e⟩ | ⟨-, e⟩ <;> rw [e]
  exact countB_moves s

theorem phi2Begin_moves (s : State) : Moves .a s (phi2Begin s) := by
  have hport : Move .a { s with cia.ta.pulse := false, cia.tb.pulse := false } (phi2Begin s) :=
    .serial _ ⟨id, fun hf => ⟨hf, id⟩, .inl (Nat.sub_le _ 1)⟩
  exact moves_after (.single hport) rfl

/-! ## The clock's own part of an operation -/

/-- The clock's record after a store to one of its registers (42_tod.md R191). -/
def State.todStored (s : State) (f : TodField) (v : Byte) : Tod :=
  if s.alarmMode then { s.cia.tod with alarm := s.cia.tod.alarm.set f v }
  else clockStorePlace f v (clockStoreGate f s.cia.tod)

/-- The clock's record after an operation that is not `RESET`: a store, the two loads that end and take the hold, the
tick; every other operation leaves it as it is. -/
def State.todAfter (s : State) : Instr → Tod
  | .stTod10 v => s.todStored .ten v
  | .stTodsec v => s.todStored .sec v
  | .stTodmin v => s.todStored .min v
  | .stTodhr v => s.todStored .hr v
  | .ldTod10 => { s.cia.tod with latched := false }
  | .ldTodhr => takeHold s.cia.tod
  | .todtick => if s.cia.enabled then s.cia.tod.ticked s.todDiv else s.cia.tod
  | _ => s.cia.tod

/-- The state with its clock as `i` leaves it. -/
def State.withTodAfter (s : State) (i : Instr) : State := { s with cia.tod := s.todAfter i }

/-- `i` may lead from `s` to `t`: its effect on the clock, then moves of Timer A's part, then moves of the rest. -/
def Performed (i : Instr) (s t : State) : Prop :=
  ∃ u, Moves .a (s.withTodAfter i) u ∧ Moves .b u t

/-- An operation with no part of Timer A: up to the core it begins as `u`, and moves lead on from there. -/
theorem Performed.after {i : Instr} {s u t : State} (hm : Moves .b u t)
    (hu : u.core = (s.withTodAfter i).core) : Performed i s t :=
  ⟨_, .refl, moves_after hm hu⟩

theorem Performed.of_core_eq {i : Instr} {s t : State} (h : t.core = (s.withTodAfter i).core) : Performed i s t :=
  .after .refl h

/-! ## Loads, peeks and stores -/

theorem exec_peek_performed (r : Reg) (s : State) :
    ∃ t, exec (.ofPeek r) s = .next t ∧ Performed (.ofPeek r) s t := by
  cases r <;> exact ⟨_, rfl, .of_core_eq rfl⟩

theorem exec_load_performed (r : Reg) (s : State) :
    ∃ t, exec (.ofLoad r) s = .next t ∧ Performed (.ofLoad r) s t := by
  cases r
  case icr => exact ⟨_, rfl, .after (.trans (.single (.acknowledge s)) (moves_of_core_eq rfl)) rfl⟩
  all_goals exact ⟨_, rfl, .of_core_eq rfl⟩

theorem todStore_core (f : TodField) (v : Byte) (s : State) :
    (todStore f v s).core = { s with cia.tod := s.todStored f v : State }.core := by
  rw [todStore_eq]
  cases f <;> rfl

/-- A store to a latch changes counts, latches and shadows only. -/
theorem latchWritten_core (t : TimerId) (s : State) (x : Half) :
    (latchWritten t (s.setTimer t { s.timer t with latch := x })).core = s.core := by
  rw [latchWritten_eq]
  cases t <;> rfl

/-- A store to `SDR` queues its byte in output mode, and else only changes the shadow. -/
theorem execStSdr_performed (v : Byte) (s : State) :
    ∃ t, exec (.stSdr v) s = .next t ∧ Performed (.stSdr v) s t := by
  have hq : ∀ n, n = 0 ∨ n = s.cfg.sdrDelay →
      Sdr.follows s.cfg.sdrDelay s.cia.sdr { s.cia.sdr with valid := true, delay := n } := fun n hn =>
    ⟨id, fun hf => ⟨hf, id⟩, .inr (by rcases hn with rfl | rfl <;> simp)⟩
  have hd : (if s.cia.sdr.inflight then s.cfg.sdrDelay else 0) = 0 ∨
      (if s.cia.sdr.inflight then s.cfg.sdrDelay else 0) = s.cfg.sdrDelay := by
    split <;> simp
  change ∃ t, execStSdr v s = .next t ∧ _
  simp only [execStSdr]
  split
  · exact ⟨_, rfl, .after (.single (.serial (s.silent.setReg .sdr v) (hq _ hd))) rfl⟩
  · exact ⟨_, rfl, .of_core_eq rfl⟩

theorem exec_store_performed (r : Reg) (v : Byte) (s : State) :
    ∃ t, exec (.ofStore r v) s = .next t ∧ Performed (.ofStore r v) s t := by
  cases r with
  | pra | ddra => exact ⟨_, rfl, .after (.single (.portA _)) rfl⟩
  | prb | ddrb => exact ⟨_, rfl, .after (.single (.portB _)) rfl⟩
  | talo | tahi | tblo | tbhi => exact ⟨_, rfl, .of_core_eq (latchWritten_core _ _ _)⟩
  | tod10 | todsec | todmin | todhr => exact ⟨_, rfl, .of_core_eq (todStore_core _ v s)⟩
  | sdr => exact execStSdr_performed v s
  | icr => exact ⟨_, rfl, .after (.single (.evaluate _)) rfl⟩
  | cra => exact ⟨_, rfl, .after (.tail (.single (.storeCra s.silent v)) (.portB _)) rfl⟩
  | crb => exact ⟨_, rfl, .after (.tail (.single (.storeCrb s.silent v)) (.portB _)) rfl⟩

/-! ## Events -/

/-- One cycle of the system clock: Timer A's part, then Timer B's and the end of the cycle. -/
theorem phi2Cycle_phases (s : State) : ∃ u, Moves .a s u ∧ Moves .b u (phi2Cycle s) :=
  ⟨_, (phi2Begin_moves s).trans (phi2TimerA_moves _),
    .tail (.tail (phi2TimerB_moves _ _) (.cycleOver _)) (.portB _)⟩

/-- A rising edge of CNT: Timer A's part, then Timer B's and the serial input. -/
theorem cntRising_phases (s : State) : ∃ u, Moves .a s u ∧ Moves .b u (cntRising s) := by
  refine ⟨_, cntTimerA_moves s, .tail ((cntTimerB_moves (cntTimerA s).2 _).trans ?_) (.portB _)⟩
  split
  · exact sdrShiftIn_moves _
  · exact .refl

/-- A tick of the clock: its record changes, and the alarm may fire. -/
theorem todTick_moves (s : State) :
    Moves .b { s with cia.tod := s.cia.tod.ticked s.todDiv } (todTick s) := by
  rcases todTick_cases s with ⟨h, e⟩ | ⟨h, k, e⟩ | ⟨h, k, e⟩
  · rw [e, Tod.ticked, if_pos h]; exact .refl
  · rw [e, todTenth_eq, Tod.ticked, if_neg (by simp [h]), if_pos k]
    split
    · exact raiseSource_moves .tod _
    · exact .refl
  · rw [e, Tod.ticked, if_neg (by simp [h]), if_neg k]; exact .refl

theorem execTodtick_performed (s : State) : ∃ t, exec .todtick s = .next t ∧ Performed .todtick s t := by
  change ∃ t, execTodtick s = .next t ∧ _
  unfold execTodtick
  split
  · next h =>
    have hafter : s.todAfter .todtick = s.cia.tod.ticked s.todDiv := if_pos h
    exact ⟨_, rfl, .after (todTick_moves s.silent) (by rw [State.withTodAfter, hafter]; rfl)⟩
  · next h =>
    have hafter : s.todAfter .todtick = s.cia.tod := if_neg h
    exact ⟨_, rfl, .of_core_eq (by rw [State.withTodAfter, hafter]; rfl)⟩

theorem exec_event_performed (e : Event) (hr : e ≠ .reset) (s : State) :
    ∃ t, exec (.ofEvent e) s = .next t ∧ Performed (.ofEvent e) s t := by
  cases e with
  | phi2 =>
    change ∃ t, execPhi2 s = .next t ∧ _
    unfold execPhi2
    split
    · obtain ⟨u, ha, hb⟩ := phi2Cycle_phases s.silent
      exact ⟨_, rfl, u, moves_after ha rfl, hb⟩
    · exact ⟨_, rfl, .of_core_eq rfl⟩
  | todtick => exact execTodtick_performed s
  | cnt level =>
    change ∃ t, execCnt level s = .next t ∧ _
    simp only [execCnt]
    split
    · obtain ⟨u, ha, hb⟩ := cntRising_phases { s.silent with cia.cnt := level }
      exact ⟨_, rfl, u, moves_after ha rfl, hb⟩
    · exact ⟨_, rfl, .of_core_eq rfl⟩
  | flag =>
    change ∃ t, execFlag s = .next t ∧ _
    unfold execFlag
    split
    · exact ⟨_, rfl, .after (raiseSource_moves .flg s.silent) rfl⟩
    · exact ⟨_, rfl, .of_core_eq rfl⟩
  | setsdr v =>
    have hbits : Move .b (s.silent.setReg .sdr v) { s.silent.setReg .sdr v with cia.sdr.bits := 0 } :=
      .serial _ ⟨fun _ => Nat.zero_le _, fun hf => ⟨hf, id⟩, .inl le_rfl⟩
    change ∃ t, execSetsdr v s = .next t ∧ _
    simp only [execSetsdr]
    split
    · exact ⟨_, rfl, .after (.trans (.single hbits) (raiseSource_moves .sdr _)) rfl⟩
    · exact ⟨_, rfl, .of_core_eq rfl⟩
  | reset => exact absurd rfl hr
  | sp | pina | pinb | disable => exact ⟨_, rfl, .of_core_eq rfl⟩

/-- Every operation but `RESET` is its effect on the clock and then a run of moves. -/
theorem exec_performed (i : Instr) (hr : i ≠ .reset) (s : State) : ∃ t, exec i s = .next t ∧ Performed i s t := by
  rw [← Instr.ofShape_shape i] at hr ⊢
  generalize i.shape = x at hr ⊢
  cases x with
  | load r => exact exec_load_performed r s
  | store r v => exact exec_store_performed r v s
  | peek r => exact exec_peek_performed r s
  | event e => exact exec_event_performed e (fun h => hr (congrArg Instr.ofEvent h)) s

theorem performed_of_exec {i : Instr} {s t : State} (hr : i ≠ .reset) (h : exec i s = .next t) : Performed i s t := by
  obtain ⟨u, hu, hp⟩ := exec_performed i hr s
  cases hu.symm.trans h
  exact hp

/-! ## What follows for every step -/

/-- A step does nothing, or it is one operation at the state that no longer holds its word. -/
theorem step_cases {s t : State} (h : step s = .next t) :
    t = s ∨ ∃ i rest, exec i { s with script := rest } = .next t := by
  unfold step stepFetched at h
  split at h
  · cases h; exact .inl rfl
  · next i rest _ => exact .inr ⟨i, rest, h⟩
  · cases h

/-- A property that the clock's own effects, the moves and `RESET` keep, and that does not look at the pending words, is
kept by every step. -/
theorem step_keeps {P : State → Prop} (hscript : ∀ s rest, P s → P { s with script := rest })
    (htod : ∀ s i, P s → P (s.withTodAfter i)) (hmove : ∀ p s t, Move p s t → P s → P t)
    (hreset : ∀ s t, exec .reset s = .next t → P s → P t) {s t : State} (hs : P s) (h : step s = .next t) : P t := by
  rcases step_cases h with rfl | ⟨i, rest, h⟩
  · exact hs
  · have hs' := hscript s rest hs
    by_cases hr : i = .reset
    · subst hr; exact hreset _ _ h hs'
    · obtain ⟨u, ha, hb⟩ := performed_of_exec hr h
      exact moves_keep (hmove .b) hb (moves_keep (hmove .a) ha (htod _ i hs'))

end Sys2Proof.Machine
end

section
/-! SUPPORT. The invariant of 10_state.md R65 (less its clause about `tb.skip`), as propositions by name, and that every
move keeps it. -/

namespace Sys2Proof.Machine

/-! ## The invariant by clauses -/

/-- `State.inv` clause by clause, in the order of 10_state.md R65. -/
structure Sound (s : State) : Prop where
  loadA : s.cia.regs.cra.getLsbD 4 = false
  loadB : s.cia.regs.crb.getLsbD 4 = false
  gap : s.cia.icr.flags.extractLsb' 5 2 = 0#2
  source : s.cia.icr.ir = true → s.cia.icr.sources ≠ 0#5
  line : s.cia.irqOut = s.cia.icr.ir
  bits : s.cia.sdr.bits ≤ 7
  ticks : s.cia.tod.ticks ≤ 5
  idleA : s.cia.regs.cra.getLsbD 0 = false → s.cia.ta.delay = 0
  idleB : s.cia.regs.crb.getLsbD 0 = false → s.cia.tb.delay = 0
  force : s.cia.sdr.forceFinish = true → s.cia.sdr.inflight = true ∧ s.cia.regs.cra.getLsbD 6 = false
  delayA : s.cia.ta.delay ≤ startDelay s.cfg.model
  delayB : s.cia.tb.delay ≤ startDelay s.cfg.model
  defer : s.cia.sdr.delay ≤ s.cfg.sdrDelay

theorem or_eq_true_iff_imp (a b : Bool) : (a || b) = true ↔ (a = false → b = true) := by
  cases a <;> simp

theorem inv_iff_sound (s : State) : s.inv = true ↔ Sound s := by
  simp only [State.inv, Cia.loadClear, Cia.flagGapClear, Cia.irHasSource, Cia.lineIsIr, Cia.bitsBounded,
    Cia.ticksBounded, Cia.stoppedHasNoDelay, Cia.forceFinishCoherent, State.delaysBounded, Bool.and_eq_true,
    or_eq_true_iff_imp, decide_eq_true_eq, beq_iff_eq, bne_iff_ne, Bool.not_eq_true', Bool.not_eq_false']
  constructor
  · rintro ⟨⟨⟨⟨⟨⟨⟨⟨⟨h1, h2⟩, h3⟩, h4⟩, h5⟩, h6⟩, h7⟩, h8, h9⟩, h10⟩, ⟨h11, h12⟩, h13⟩
    exact ⟨h1, h2, h3, h4, h5, h6, h7, h8, h9, h10, h11, h12, h13⟩
  · rintro ⟨h1, h2, h3, h4, h5, h6, h7, h8, h9, h10, h11, h12, h13⟩
    exact ⟨⟨⟨⟨⟨⟨⟨⟨⟨h1, h2⟩, h3⟩, h4⟩, h5⟩, h6⟩, h7⟩, h8, h9⟩, h10⟩, ⟨h11, h12⟩, h13⟩

/-- The invariant looks only at the core. -/
theorem Sound.of_core_eq {s t : State} (h : t.core = s.core) (hs : Sound s) : Sound t := by
  have e : t.core.inv = s.core.inv := congrArg State.inv h
  exact (inv_iff_sound t).mp (e.trans ((inv_iff_sound s).mpr hs))

theorem Icr.ir_zero (m : BitVec 5) : Icr.ir { mask := m, flags := 0 } = false := by simp [Icr.ir]

/-- The reset values meet the invariant, whatever the parameters. -/
theorem Sound.of_reset {s : State} (h : s.cia = Cia.reset) : Sound s := by
  obtain ⟨c, cfg, script, trace, ret⟩ := s
  cases h
  have hload : (0 : Byte).getLsbD 4 = false := by decide
  have hgap : Icr.reset.flags.extractLsb' 5 2 = 0#2 := by decide
  have hir : Icr.reset.ir = false := Icr.ir_zero 0
  exact {
    loadA := hload, loadB := hload, gap := hgap
    source := fun h => absurd (hir.symm.trans h) Bool.false_ne_true
    line := hir.symm, bits := Nat.zero_le _, ticks := Nat.zero_le _
    idleA := fun _ => rfl, idleB := fun _ => rfl
    force := fun h => absurd h Bool.false_ne_true
    delayA := Nat.zero_le _, delayB := Nat.zero_le _, defer := Nat.zero_le _ }

/-! ## Flags and the line -/

/-- Setting flag bits other than 6:5 and IR. -/
theorem Sound.setFlags {s : State} (hs : Sound s) {m : BitVec 9} (hm : m.extractLsb' 5 2 = 0#2)
    (hm7 : m.getLsbD 7 = false) : Sound { s with cia.icr.flags := s.cia.icr.flags ||| m } := by
  have hgap : (s.cia.icr.flags ||| m).extractLsb' 5 2 = s.cia.icr.flags.extractLsb' 5 2 := by
    rw [BitVec.extractLsb'_or, hm, BitVec.or_zero]
  have hir : (s.cia.icr.flags ||| m).getLsbD 7 = s.cia.icr.ir := by
    rw [BitVec.getLsbD_or, hm7, Bool.or_false, Icr.ir]
  have hsource : (s.cia.icr.flags ||| m).extractLsb' 0 5 = 0#5 → s.cia.icr.sources = 0#5 := fun h0 => by
    rw [BitVec.extractLsb'_or] at h0
    exact (BitVec.or_eq_zero_iff.mp h0).1
  exact { hs with
    gap := hgap.trans hs.gap
    source := fun h h0 => hs.source (hir.symm.trans h) (hsource h0)
    line := hs.line.trans hir.symm }

theorem Sound.latch {s : State} (hs : Sound s) (src : Source) :
    Sound { s with cia.icr.flags := s.cia.icr.flags ||| src.bit } :=
  hs.setFlags (by cases src <;> rfl) (by cases src <;> rfl)

theorem Sound.evaluate {s : State} (hs : Sound s) : Sound (evaluateIrq s) := by
  unfold evaluateIrq
  split
  · next h =>
    obtain ⟨hw, -⟩ := Bool.and_eq_true_iff.mp h
    have hgap : (s.cia.icr.flags ||| 0x080#9).extractLsb' 5 2 = s.cia.icr.flags.extractLsb' 5 2 := by
      simp [BitVec.extractLsb'_or]
    have hsrc : (s.cia.icr.flags ||| 0x080#9).extractLsb' 0 5 = s.cia.icr.sources := by
      simp [BitVec.extractLsb'_or, Icr.sources]
    have hne : s.cia.icr.sources ≠ 0#5 := fun h0 => by simp [Icr.wantsIrq, h0] at hw
    have hir : true = (s.cia.icr.flags ||| 0x080#9).getLsbD 7 := by simp
    exact { hs with gap := hgap.trans hs.gap, source := fun _ h0 => hne (hsrc.symm.trans h0), line := hir }
  · exact hs

theorem Sound.acknowledge {s : State} (hs : Sound s) : Sound (releaseIrq s) := by
  rw [releaseIrq_eq]
  have hir := Icr.ir_zero s.cia.icr.mask
  exact { hs with
    gap := by simp only; decide
    source := fun h => absurd (hir.symm.trans h) Bool.false_ne_true
    line := hir.symm }

/-! ## The timers -/

/-- Clearing START leaves the other bits of a control byte. -/
theorem putBit_zero_getLsbD (v : Byte) {j : Nat} (hj : j < 8) (h0 : j ≠ 0) :
    (putBit v 0 false).getLsbD j = v.getLsbD j := by
  simpa [h0] using putBit_getLsbD v 0 j false (by decide) hj

theorem Sound.stopA {s : State} (hs : Sound s) : Sound (oneShotStopA s) := by
  unfold oneShotStopA
  split
  · exact { hs with
      loadA := (putBit_zero_getLsbD _ (by decide) (by decide)).trans hs.loadA
      idleA := fun _ => rfl
      force := fun h => ⟨(hs.force h).1, (putBit_zero_getLsbD _ (by decide) (by decide)).trans (hs.force h).2⟩
      delayA := Nat.zero_le _ }
  · exact hs

theorem Sound.stopB {s : State} (hs : Sound s) : Sound (oneShotStopB s) := by
  unfold oneShotStopB
  split
  · exact { hs with
      loadB := (putBit_zero_getLsbD _ (by decide) (by decide)).trans hs.loadB
      idleB := fun _ => rfl
      delayB := Nat.zero_le _ }
  · exact hs

theorem Sound.chargeB {s : State} (hs : Sound s) : Sound (tbBugCheck s) := by
  unfold tbBugCheck
  split
  · have hcharged : Sound { s with cia.tb.skip := s.cia.tb.skip + s.cfg.tbBugLoss, cia.tbRestart := false } :=
      { hs with }
    exact hcharged.setFlags (m := 0x100#9) (by decide) (by decide)
  · exact hs

/-- The bits of a stored control byte: LOAD is 0, the others are the byte's own. -/
theorem storedControl_getLsbD (v : Byte) :
    (storedControl v).getLsbD 4 = false ∧ (storedControl v).getLsbD 0 = v.getLsbD 0 ∧
      (storedControl v).getLsbD 6 = v.getLsbD 6 := by
  simp [storedControl]

theorem delayAfter_le {m : Model} {old v : Byte} {d : Nat} (h : d ≤ startDelay m) :
    delayAfter m old v d ≤ startDelay m := by
  unfold delayAfter
  split
  · exact Nat.zero_le _
  · split
    · exact le_rfl
    · exact h

theorem delayAfter_of_stopped {m : Model} {old v : Byte} {d : Nat} (h : v.getLsbD 0 = false) :
    delayAfter m old v d = 0 := by
  simp only [delayAfter, h, Bool.not_false, if_true]

theorem Sound.storeCrb {s : State} (hs : Sound s) (v : Byte) :
    Sound (restartMarked (s.reg .crb) v (controlStored .b v s)) := by
  obtain ⟨h4, h0, -⟩ := storedControl_getLsbD v
  rw [restartMarked_eq, controlStored_eq]
  exact { hs with
    loadB := h4
    idleB := fun h => delayAfter_of_stopped (h0.symm.trans h)
    delayB := delayAfter_le hs.delayB }

/-- What `SdrModeChange` makes of a coherent serial record (43_sdr.md R224). -/
theorem sdrModeChange_sound (o n : Bool) (s : State) (hb : s.cia.sdr.bits ≤ 7)
    (hf : s.cia.sdr.forceFinish = true → s.cia.sdr.inflight = true ∧ o = false) :
    (sdrModeChange o n s).cia.sdr.bits ≤ 7 ∧
    ((sdrModeChange o n s).cia.sdr.forceFinish = true → (sdrModeChange o n s).cia.sdr.inflight = true ∧ n = false) ∧
    (sdrModeChange o n s).cia.sdr.delay ≤ s.cia.sdr.delay := by
  cases o <;> cases n
  · exact ⟨hb, hf, le_rfl⟩
  · simp only [sdrModeChange]
    split
    · exact ⟨hb, fun h => absurd h Bool.false_ne_true, le_rfl⟩
    · next h => exact ⟨Nat.zero_le _, fun h' => absurd h' h, Nat.zero_le _⟩
  · have hnot : s.cia.sdr.forceFinish = true → False := fun h => Bool.false_ne_true (hf h).2.symm
    simp only [sdrModeChange]
    split
    · next h => exact ⟨hb, fun _ => ⟨h, trivial⟩, le_rfl⟩
    · exact ⟨Nat.zero_le _, fun h => (hnot h).elim, Nat.zero_le _⟩
  · exact ⟨hb, fun h => absurd (hf h).2.symm Bool.false_ne_true, le_rfl⟩

theorem controlStored_sdr (t : TimerId) (v : Byte) (s : State) : (controlStored t v s).cia.sdr = s.cia.sdr := by
  rw [controlStored_eq, State.setTimer_sdr, State.setReg_sdr]

theorem Sound.storeCra {s : State} (hs : Sound s) (v : Byte) :
    Sound (sdrModeChange ((s.reg .cra).getLsbD 6) (v.getLsbD 6) (controlStored .a v s)) := by
  obtain ⟨h4, h0, h6⟩ := storedControl_getLsbD v
  obtain ⟨hb, hf, hd⟩ := sdrModeChange_sound ((s.reg .cra).getLsbD 6) (v.getLsbD 6) (controlStored .a v s)
    (by rw [controlStored_sdr]; exact hs.bits) (by rw [controlStored_sdr]; exact hs.force)
  rw [controlStored_sdr] at hd
  rw [sdrModeChange_frame]
  generalize (sdrModeChange ((s.reg .cra).getLsbD 6) (v.getLsbD 6) (controlStored .a v s)).cia.sdr = d at hb hf hd
  rw [controlStored_eq]
  exact { hs with
    loadA := h4, bits := hb
    idleA := fun h => delayAfter_of_stopped (h0.symm.trans h)
    force := fun h => ⟨(hf h).1, h6.trans (hf h).2⟩
    delayA := delayAfter_le hs.delayA
    defer := hd.trans hs.defer }

theorem Sound.serial {s : State} (hs : Sound s) {d : Sdr} (h : s.cia.sdr.follows s.cfg.sdrDelay d) :
    Sound { s with cia.sdr := d } := by
  obtain ⟨hb, hf, hd⟩ := h
  exact { hs with
    bits := hb hs.bits
    force := fun h => ⟨(hf h).2 (hs.force (hf h).1).1, (hs.force (hf h).1).2⟩
    defer := hd.elim (fun h => h.trans hs.defer) id }

/-! ## Every move and every step -/

theorem Sound.move {p : Phase} {s t : State} (h : Move p s t) (hs : Sound s) : Sound t := by
  cases h with
  | quiet h => exact hs.of_core_eq h
  | portA => rw [updatePortA_eq]; exact { hs with }
  | portB => rw [updatePortB_eq]; exact { hs with }
  | spPin _ b => rw [emitSp_eq]; exact { hs with }
  | cntPin _ b => rw [emitCnt_eq]; exact { hs with }
  | latch _ src => exact hs.latch src
  | evaluate => exact hs.evaluate
  | acknowledge => exact hs.acknowledge
  | serial _ h => exact hs.serial h
  | storeCra _ v => exact hs.storeCra v
  | storeCrb _ v => exact hs.storeCrb v
  | waitA =>
    exact { hs with
      idleA := fun h => by simp [hs.idleA h], delayA := (Nat.sub_le _ 1).trans hs.delayA }
  | waitB =>
    exact { hs with
      idleB := fun h => by simp [hs.idleB h], delayB := (Nat.sub_le _ 1).trans hs.delayB }
  | stopA => exact hs.stopA
  | chargeB => exact hs.chargeB
  | stopB => exact hs.stopB
  | loseTick | cycleOver => exact { hs with }

/-- The sub-tick counter stays below the divisor, which is 5 or 6. -/
theorem Sound.withTodAfter {s : State} (hs : Sound s) (i : Instr) : Sound (s.withTodAfter i) := by
  have hstore (f : TodField) (v : Byte) : (s.todStored f v).ticks ≤ 5 := by
    unfold State.todStored
    split
    · exact hs.ticks
    · rw [clockStorePlace_eq, clockStoreGate_eq]
      simp only
      split
      · exact Nat.zero_le _
      · exact hs.ticks
  have htick : (s.cia.tod.ticked s.todDiv).ticks ≤ 5 := by
    have hdiv : s.todDiv ≤ 6 := by unfold State.todDiv; split <;> decide
    unfold Tod.ticked
    split
    · exact hs.ticks
    · split
      · exact Nat.zero_le _
      · simp only; omega
  have hafter : (s.todAfter i).ticks ≤ 5 := by
    cases i with
    | stTod10 v | stTodsec v | stTodmin v | stTodhr v => exact hstore _ v
    | todtick =>
      simp only [State.todAfter]
      split
      · exact htick
      · exact hs.ticks
    | ldTodhr => simp only [State.todAfter, takeHold_eq]; exact hs.ticks
    | _ => exact hs.ticks
  exact { hs with ticks := hafter }

theorem Sound.reset {s t : State} (h : exec .reset s = .next t) : Sound t := by
  cases h
  exact .of_reset rfl

/-- Settles O13: the clauses of R65 are kept by the clock's own effects, by every elementary move and by `RESET`. -/
theorem stepKeepsStateInvariant : Obligations.StepKeepsStateInvariant := by
  intro s t hs h
  rw [inv_iff_sound] at hs ⊢
  exact step_keeps (P := Sound) (fun _ _ hs => { hs with }) (fun _ i hs => hs.withTodAfter i)
    (fun _ _ _ h hs => hs.move h) (fun _ _ h _ => .reset h) hs h

end Sys2Proof.Machine
end

section
/-! SUPPORT. What the outputs and the trace have to do with each other: every move announces exactly the changes of the
output levels it makes (10_state.md R60, R61, R64; 44_icr.md R242, R248). -/

namespace Sys2Proof.Machine

/-! ## Output levels along a trace -/

/-- The levels of the five outputs. -/
structure Levels where
  portA : Byte
  portB : Byte
  sp : Bool
  cnt : Bool
  irq : Bool

/-- The levels construction leaves (45_system.md R260). -/
def Levels.initial : Levels := ⟨0xFF, 0xFF, true, true, false⟩

/-- The levels after the events `es`. -/
def Levels.after (l : Levels) (es : List OutEvent) : Levels :=
  ⟨lastPortA l.portA es, lastPortB l.portB es, lastSerialPin l.sp es, lastCountPin l.cnt es, lastIrqLine l.irq es⟩

/-- Each of the events `es` changes the output it is about. -/
def Levels.changedBy (l : Levels) (es : List OutEvent) : Bool := changesOnly l.portA l.portB l.sp l.cnt l.irq es

/-- The levels a state drives. -/
def State.levels (s : State) : Levels :=
  ⟨s.cia.oldPortA, s.cia.oldPortB, s.cia.spOut, s.cia.cntOut, s.cia.irqOut⟩

@[simp] theorem Levels.after_nil (l : Levels) : l.after [] = l := rfl

@[simp] theorem Levels.changedBy_nil (l : Levels) : l.changedBy [] = true := rfl

/-- One event, then the others. -/
theorem Levels.after_cons (l : Levels) (e : OutEvent) (es : List OutEvent) :
    l.after (e :: es) = (l.after [e]).after es := by
  cases e <;> rfl

theorem Levels.changedBy_cons (l : Levels) (e : OutEvent) (es : List OutEvent) :
    l.changedBy (e :: es) = (l.changedBy [e] && (l.after [e]).changedBy es) := by
  cases e <;> simp [Levels.changedBy, Levels.after, changesOnly, lastPortA, lastPortB, lastSerialPin, lastCountPin,
    lastIrqLine]

theorem Levels.after_append (l : Levels) (es fs : List OutEvent) : l.after (es ++ fs) = (l.after es).after fs := by
  induction es generalizing l with
  | nil => rfl
  | cons e es ih => rw [List.cons_append, after_cons, ih, ← after_cons]

theorem Levels.changedBy_append (l : Levels) (es fs : List OutEvent) :
    l.changedBy (es ++ fs) = (l.changedBy es && (l.after es).changedBy fs) := by
  induction es generalizing l with
  | nil => simp
  | cons e es ih => rw [List.cons_append, changedBy_cons, ih, changedBy_cons l e es, after_cons l e es, Bool.and_assoc]

/-- `State.outputsMirrorTrace` in the words of levels. -/
theorem outputsMirrorTrace_iff (s : State) :
    s.outputsMirrorTrace = true ↔
      s.levels = Levels.initial.after s.trace ∧ Levels.initial.changedBy s.trace = true := by
  simp only [State.outputsMirrorTrace, Bool.and_eq_true, beq_iff_eq, State.levels, Levels.after, Levels.initial,
    Levels.mk.injEq, Levels.changedBy]
  tauto

/-! ## Line events and their names -/

/-- An event of the line names the line and the driver of `c`. -/
def namesLine (c : Config) : OutEvent → Bool
  | .irqLine kind id _ => kind == c.irqLine && id == c.ctxId
  | _ => true

theorem irqEventsNamed_eq (s : State) : s.irqEventsNamed = s.trace.all (namesLine s.cfg) := by
  unfold State.irqEventsNamed
  congr 1

theorem namesLine_own (c : Config) (b : Bool) : namesLine c (.irqLine c.irqLine c.ctxId b) = true := by
  simp [namesLine]

/-! ## Moves announce what they change -/

/-- From `s` to `t` the trace grows by the events that announce the change of levels; they name the own line, and if
the line followed IR they are all changes and it still does. -/
def Announced (s t : State) : Prop :=
  ∃ es, t.trace = s.trace ++ es ∧ t.cfg = s.cfg ∧ t.levels = s.levels.after es ∧ es.all (namesLine s.cfg) = true ∧
    (s.cia.irqOut = s.cia.icr.ir → s.levels.changedBy es = true ∧ t.cia.irqOut = t.cia.icr.ir)

/-- Nothing to announce. -/
theorem Announced.of_same {s t : State} (htrace : t.trace = s.trace) (hcfg : t.cfg = s.cfg)
    (hlevels : t.levels = s.levels) (hir : t.cia.icr.ir = s.cia.icr.ir) : Announced s t := by
  have hirq : t.cia.irqOut = s.cia.irqOut := congrArg Levels.irq hlevels
  exact ⟨[], by simp [htrace], hcfg, hlevels, rfl, fun h => ⟨rfl, by rw [hirq, h, hir]⟩⟩

theorem Announced.refl (s : State) : Announced s s := .of_same rfl rfl rfl rfl

/-- One event, which is a change of its output. -/
theorem Announced.of_event {s t : State} (e : OutEvent) (htrace : t.trace = s.trace ++ [e]) (hcfg : t.cfg = s.cfg)
    (hlevels : t.levels = s.levels.after [e]) (hname : namesLine s.cfg e = true)
    (hchange : s.cia.irqOut = s.cia.icr.ir → s.levels.changedBy [e] = true)
    (hline : s.cia.irqOut = s.cia.icr.ir → t.cia.irqOut = t.cia.icr.ir) : Announced s t :=
  ⟨[e], htrace, hcfg, hlevels, by simp [hname], fun h => ⟨hchange h, hline h⟩⟩

theorem Announced.trans {s t u : State} (h : Announced s t) (k : Announced t u) : Announced s u := by
  obtain ⟨es, htrace, hcfg, hlevels, hname, hline⟩ := h
  obtain ⟨fs, ktrace, kcfg, klevels, kname, kline⟩ := k
  rw [hcfg] at kname
  refine ⟨es ++ fs, by rw [ktrace, htrace, List.append_assoc], kcfg.trans hcfg,
    by rw [klevels, hlevels, Levels.after_append], by rw [List.all_append, hname, kname]; rfl, fun h => ?_⟩
  obtain ⟨hchange, hl⟩ := hline h
  obtain ⟨kchange, kl⟩ := kline hl
  exact ⟨by rw [Levels.changedBy_append, hchange, ← hlevels, kchange]; rfl, kl⟩

/-- Port A goes to `v`, announced if that is a change. -/
def presentA (v : Byte) (s : State) : State :=
  { s with cia.oldPortA := v, trace := s.trace ++ if v = s.cia.oldPortA then [] else [.portA v] }

/-- Port B goes to `v`, announced if that is a change. -/
def presentB (v : Byte) (s : State) : State :=
  { s with cia.oldPortB := v, trace := s.trace ++ if v = s.cia.oldPortB then [] else [.portB v] }

theorem presentA_announced (v : Byte) (s : State) : Announced s (presentA v s) := by
  by_cases h : v = s.cia.oldPortA
  · exact .of_same (by simp [presentA, h]) rfl (by simp [presentA, h, State.levels]) rfl
  · have hchange : s.levels.changedBy [.portA v] = true := by
      simpa [Levels.changedBy, changesOnly, State.levels] using h
    exact .of_event (.portA v) (by simp [presentA, h]) rfl rfl rfl (fun _ => hchange) id

theorem presentB_announced (v : Byte) (s : State) : Announced s (presentB v s) := by
  by_cases h : v = s.cia.oldPortB
  · exact .of_same (by simp [presentB, h]) rfl (by simp [presentB, h, State.levels]) rfl
  · have hchange : s.levels.changedBy [.portB v] = true := by
      simpa [Levels.changedBy, changesOnly, State.levels] using h
    exact .of_event (.portB v) (by simp [presentB, h]) rfl rfl rfl (fun _ => hchange) id

theorem emitSp_announced (s : State) (b : Bool) : Announced s (emitSp s b) := by
  unfold emitSp
  split
  · exact .refl s
  · next h =>
    have hchange : s.levels.changedBy [.serialPin b] = true := by
      simpa [Levels.changedBy, changesOnly, State.levels] using h
    exact .of_event (.serialPin b) rfl rfl rfl rfl (fun _ => hchange) id

theorem emitCnt_announced (s : State) (b : Bool) : Announced s (emitCnt s b) := by
  unfold emitCnt
  split
  · exact .refl s
  · next h =>
    have hchange : s.levels.changedBy [.countPin b] = true := by
      simpa [Levels.changedBy, changesOnly, State.levels] using h
    exact .of_event (.countPin b) rfl rfl rfl rfl (fun _ => hchange) id

/-- The line is asserted only while IR is clear (44_icr.md R242). -/
theorem evaluateIrq_announced (s : State) : Announced s (evaluateIrq s) := by
  unfold evaluateIrq
  split
  · next h =>
    have hir : s.cia.icr.ir = false := by simpa using (Bool.and_eq_true_iff.mp h).2
    have hset : true = (s.cia.icr.flags ||| 0x080#9).getLsbD 7 := by simp
    have hchange : s.cia.irqOut = s.cia.icr.ir →
        s.levels.changedBy [.irqLine s.cfg.irqLine s.cfg.ctxId true] = true := fun hl => by
      simp [Levels.changedBy, changesOnly, State.levels, hl, hir]
    exact .of_event _ rfl rfl rfl (namesLine_own s.cfg true) hchange fun _ => hset
  · exact .refl s

/-- The line is released only where it is driven (44_icr.md R244). -/
theorem releaseIrq_announced (s : State) : Announced s (releaseIrq s) := by
  have hclear := (Icr.ir_zero s.cia.icr.mask).symm
  unfold releaseIrq
  split
  · next h =>
    have hchange : s.levels.changedBy [.irqLine s.cfg.irqLine s.cfg.ctxId false] = true := by
      simp [Levels.changedBy, changesOnly, State.levels, h]
    exact .of_event _ rfl rfl rfl (namesLine_own s.cfg false) (fun _ => hchange) fun _ => hclear
  · next h =>
    have hline : s.cia.irqOut = false := by simpa using h
    exact ⟨[], by simp, rfl, rfl, rfl, fun _ => ⟨rfl, hline.trans hclear⟩⟩

/-- Marking the Timer B bug leaves IR alone. -/
theorem tbBugCheck_announced (s : State) : Announced s (tbBugCheck s) := by
  have hir : (s.cia.icr.flags ||| 0x100#9).getLsbD 7 = s.cia.icr.ir := by simp [Icr.ir]
  unfold tbBugCheck
  split
  · exact .of_same rfl rfl rfl hir
  · exact .refl s

theorem Move.announced {p : Phase} {s t : State} (h : Move p s t) : Announced s t := by
  cases h with
  | quiet h =>
    have htrace : t.core.trace = s.core.trace := congrArg State.trace h
    have hcfg : t.core.cfg = s.core.cfg := congrArg State.cfg h
    have hlevels : t.core.levels = s.core.levels := congrArg State.levels h
    have hir : t.core.cia.icr.ir = s.core.cia.icr.ir := congrArg (fun c : State => c.cia.icr.ir) h
    exact .of_same htrace hcfg hlevels hir
  | portA => rw [updatePortA_eq]; exact presentA_announced s.portAOut s
  | portB => rw [updatePortB_eq]; exact presentB_announced s.portBOut s
  | spPin _ b => exact emitSp_announced s b
  | cntPin _ b => exact emitCnt_announced s b
  | latch _ src => exact .of_same rfl rfl rfl (Icr.ir_or_source s.cia.icr src)
  | evaluate => exact evaluateIrq_announced s
  | acknowledge => exact releaseIrq_announced s
  | storeCra _ v => rw [sdrModeChange_frame, controlStored_eq]; exact .of_same rfl rfl rfl rfl
  | storeCrb _ v => rw [restartMarked_eq, controlStored_eq]; exact .of_same rfl rfl rfl rfl
  | chargeB => exact tbBugCheck_announced s
  | stopA => rw [oneShotStopA_eq]; exact .of_same rfl rfl rfl rfl
  | stopB => rw [oneShotStopB_eq]; exact .of_same rfl rfl rfl rfl
  | serial | waitA | waitB | loseTick | cycleOver => exact .of_same rfl rfl rfl rfl

/-- `RESET` announces every output it changes (45_system.md R261). -/
theorem execReset_announced {s t : State} (h : exec .reset s = .next t) : Announced s t := by
  have hall := (releaseIrq_announced s).trans ((presentA_announced 0xFF _).trans ((presentB_announced 0xFF _).trans
    ((emitSp_announced _ true).trans (emitCnt_announced _ true))))
  cases h
  refine hall.trans (.of_same ?_ ?_ ?_ ?_)
  all_goals rw [emitCnt_eq, emitSp_eq, releaseIrq_eq]
  · have hport (v x : Byte) (e : OutEvent) : (if x != v then [e] else []) = if v = x then [] else [e] := by
      by_cases h : v = x
      · simp [h]
      · simp [h, Ne.symm h]
    have hpin (b : Bool) (e : OutEvent) : (if !b then [e] else []) = if true = b then [] else [e] := by
      cases b <;> rfl
    rw [announceReset_eq]
    simp only [hport, hpin, presentA, presentB, List.append_assoc]
    rfl
  · rw [announceReset_eq]; rfl
  · rfl
  · exact (Icr.ir_zero _).trans (Icr.ir_zero _).symm

/-! ## The two invariants -/

/-- The line follows IR, the levels are those of the last events, and every event was a change. -/
structure Mirrored (s : State) : Prop where
  line : s.cia.irqOut = s.cia.icr.ir
  levels : s.levels = Levels.initial.after s.trace
  changes : Levels.initial.changedBy s.trace = true

theorem Mirrored.announced {s t : State} (h : Announced s t) (hs : Mirrored s) : Mirrored t := by
  obtain ⟨es, htrace, -, hlevels, -, hline⟩ := h
  obtain ⟨hchange, hline⟩ := hline hs.line
  exact {
    line := hline
    levels := by rw [hlevels, hs.levels, htrace, Levels.after_append]
    changes := by rw [htrace, Levels.changedBy_append, hs.changes, ← hs.levels, hchange]; rfl }

theorem irqEventsNamed_announced {s t : State} (h : Announced s t) (hs : s.irqEventsNamed = true) :
    t.irqEventsNamed = true := by
  obtain ⟨es, htrace, hcfg, -, hname, -⟩ := h
  rw [irqEventsNamed_eq] at hs ⊢
  rw [htrace, hcfg, List.all_append, hs, hname]; rfl

/-- Settles O14: every move announces the level changes it makes, and `RESET` announces its own. -/
theorem stepKeepsOutputsMirrored : Obligations.StepKeepsOutputsMirrored := by
  constructor
  · intro s t hline hs h
    obtain ⟨hlevels, hchanges⟩ := (outputsMirrorTrace_iff s).mp hs
    have hm : Mirrored t := step_keeps (P := Mirrored) (fun _ _ hs => { hs with }) (fun _ _ hs => { hs with })
      (fun _ _ _ h hs => hs.announced h.announced) (fun _ _ h hs => hs.announced (execReset_announced h))
      ⟨beq_iff_eq.mp hline, hlevels, hchanges⟩ h
    exact (outputsMirrorTrace_iff t).mpr ⟨hm.levels, hm.changes⟩
  · intro s t hs h
    exact step_keeps (P := fun s => s.irqEventsNamed = true) (fun _ _ hs => hs) (fun _ _ hs => hs)
      (fun _ _ _ h => irqEventsNamed_announced h.announced)
      (fun _ _ h => irqEventsNamed_announced (execReset_announced h)) hs h

end Sys2Proof.Machine
end

section
/-! SUPPORT. The clock's record under every operation: who changes the alarm, and that legal bytes keep it legal BCD. -/

namespace Sys2Proof.Machine

/-! ## One equation for the clock -/

/-- No move touches the clock. -/
theorem Move.tod_eq {p : Phase} {s t : State} (h : Move p s t) : t.cia.tod = s.cia.tod := by
  cases h with
  | quiet h =>
    have htod : t.core.cia.tod = s.core.cia.tod := congrArg (fun c : State => c.cia.tod) h
    exact htod
  | portA => rw [updatePortA_eq]
  | portB => rw [updatePortB_eq]
  | spPin _ b => rw [emitSp_eq]
  | cntPin _ b => rw [emitCnt_eq]
  | evaluate => rw [evaluateIrq_eq]
  | acknowledge => rw [releaseIrq_eq]
  | storeCra _ v => rw [sdrModeChange_frame, controlStored_eq]; rfl
  | storeCrb _ v => rw [restartMarked_eq, controlStored_eq]; rfl
  | stopA => rw [oneShotStopA_eq]
  | stopB => rw [oneShotStopB_eq]
  | chargeB => rw [tbBugCheck_eq]
  | latch | serial | waitA | waitB | loseTick | cycleOver => rfl

/-- The clock after any operation but `RESET`. -/
theorem exec_tod {i : Instr} {s t : State} (hr : i ≠ .reset) (h : exec i s = .next t) : t.cia.tod = s.todAfter i := by
  obtain ⟨u, ha, hb⟩ := performed_of_exec hr h
  have hu : u.cia.tod = s.todAfter i := moves_keep (fun _ _ hm hx => hm.tod_eq.trans hx) ha rfl
  exact moves_keep (fun _ _ hm hx => hm.tod_eq.trans hx) hb hu

/-! ## The alarm (10_state.md R45) -/

theorem todStored_alarm (s : State) (f : TodField) (v : Byte) (h : s.alarmMode = false) :
    (s.todStored f v).alarm = s.cia.tod.alarm := by
  rw [State.todStored, if_neg (by simp [h]), clockStorePlace_eq, clockStoreGate_eq]

theorem ticked_alarm (d : Tod) (div : Nat) : (d.ticked div).alarm = d.alarm := by
  unfold Tod.ticked
  split
  · rfl
  · split <;> rfl

/-- Settles O21: the clock's own effect of an operation reaches the alarm only in a store with ALARM set. -/
theorem onlyAlarmStoresWriteAlarm : Obligations.OnlyAlarmStoresWriteAlarm := by
  intro i s t hr h hne
  rw [exec_tod hr h] at hne
  have hstore (f : TodField) (v : Byte) (hne : (s.todStored f v).alarm ≠ s.cia.tod.alarm) : s.alarmMode = true := by
    by_contra hm
    exact hne (todStored_alarm s f v (by simpa using hm))
  cases i with
  | stTod10 v => exact ⟨hstore .ten v hne, .ten, v, rfl⟩
  | stTodsec v => exact ⟨hstore .sec v hne, .sec, v, rfl⟩
  | stTodmin v => exact ⟨hstore .min v hne, .min, v, rfl⟩
  | stTodhr v => exact ⟨hstore .hr v hne, .hr, v, rfl⟩
  | todtick =>
    simp only [State.todAfter] at hne
    split at hne
    · exact absurd (ticked_alarm _ _) hne
    · exact absurd rfl hne
  | ldTodhr => exact absurd (by simp only [State.todAfter, takeHold_eq]) hne
  | _ => exact absurd rfl hne

/-! ## Legal BCD, field by field -/

theorem TodTime.legal_iff (t : TodTime) : t.legal = true ↔ ∀ f, legalField f (t.get f) = true := by
  constructor
  · intro h f
    simp only [TodTime.legal, Bool.and_eq_true] at h
    obtain ⟨⟨⟨hhr, hmin⟩, hsec⟩, hten⟩ := h
    cases f <;> assumption
  · intro h
    simp only [TodTime.legal, Bool.and_eq_true]
    exact ⟨⟨⟨h .hr, h .min⟩, h .sec⟩, h .ten⟩

theorem TodTime.get_commit (t buf : TodTime) (m : BitVec 4) (f : TodField) :
    (t.commit buf m).get f = if m.getLsbD f.bit then buf.get f else t.get f := by
  cases f <;> rfl

/-- The clock is legal, and so is each byte that waits for it. -/
theorem Tod.legal_iff (d : Tod) :
    d.legal = true ↔
      ∀ f, legalField f (d.clk.get f) = true ∧ (d.wmask.getLsbD f.bit = true → legalField f (d.wbuf.get f) = true) := by
  simp only [Tod.legal, Bool.and_eq_true, TodTime.legal_iff, TodTime.get_commit, ← forall_and]
  refine forall_congr' fun f => and_congr_right fun hclk => ?_
  cases d.wmask.getLsbD f.bit <;> simp [hclk]

/-! ## Stores -/

theorem TodTime.legal_set {t : TodTime} {f g : TodField} {v : Byte} (hv : legalField f v = true)
    (ht : g ≠ f → legalField g (t.get g) = true) : legalField g ((t.set f v).get g) = true := by
  by_cases h : g = f
  · subst h; rwa [TodTime.get_set_self]
  · rw [TodTime.get_set_ne t v h]; exact ht h

theorem legal_clockStoreGate {d : Tod} (hd : d.legal = true) (f : TodField) : (clockStoreGate f d).legal = true := by
  rw [clockStoreGate_eq]; exact hd

theorem legal_clockStorePlace {d : Tod} (hd : d.legal = true) {f : TodField} {v : Byte}
    (hv : legalField f v = true) : (clockStorePlace f v d).legal = true := by
  rw [Tod.legal_iff] at hd ⊢
  intro g
  obtain ⟨hclk, hbuf⟩ := hd g
  unfold clockStorePlace
  split
  · refine ⟨hclk, fun hm => TodTime.legal_set hv fun hne => hbuf ?_⟩
    simpa [BitVec.getLsbD_or, maskBit_getLsbD, hne] using hm
  · refine ⟨TodTime.legal_set hv fun _ => hclk, fun hm => hbuf ?_⟩
    simp only [BitVec.getLsbD_and, Bool.and_eq_true] at hm
    exact hm.1

theorem legal_todStored {s : State} (hs : s.cia.tod.legal = true) {f : TodField} {v : Byte}
    (hv : legalField f v = true) : (s.todStored f v).legal = true := by
  unfold State.todStored
  split
  · exact hs
  · exact legal_clockStorePlace (legal_clockStoreGate hs f) hv

/-! ## The tick -/

theorem TodTime.legal_increment {t : TodTime} (h : t.legal = true) : t.increment.legal = true := by
  rw [TodTime.legal_iff] at h
  have hten := (bcdInc_legal_digit t.ten (h .ten)).1
  have hsec (c : Bool) : legalField .sec (if c then bcdInc t.sec 0x59 else (t.sec, false)).1 = true := by
    cases c
    · exact h .sec
    · exact (bcdInc_legal_sixty t.sec (h .sec)).1
  have hmin (c : Bool) : legalField .min (if c then bcdInc t.min 0x59 else (t.min, false)).1 = true := by
    cases c
    · exact h .min
    · exact (bcdInc_legal_sixty t.min (h .min)).1
  have hhr (c : Bool) : legalField .hr (if c then hourInc t.hr else t.hr) = true := by
    cases c
    · exact h .hr
    · exact (hourInc_legal t.hr (h .hr)).1
  rw [TodTime.legal_iff]
  intro f
  cases f
  · exact hten
  · exact hsec _
  · exact hmin _
  · exact hhr _

theorem legal_commitBuffer {d : Tod} (h : d.legal = true) : (commitBuffer d).legal = true := by
  obtain ⟨-, hcommit⟩ := Bool.and_eq_true_iff.mp h
  rw [Tod.legal_iff]
  exact fun f => ⟨(TodTime.legal_iff _).mp hcommit f, fun hm => by simp [commitBuffer] at hm⟩

theorem legal_ticked {d : Tod} (h : d.legal = true) (div : Nat) : (d.ticked div).legal = true := by
  have hc := legal_commitBuffer h
  unfold Tod.ticked
  split
  · exact hc
  · split
    · obtain ⟨hclk, -⟩ := Bool.and_eq_true_iff.mp hc
      rw [Tod.legal_iff]
      exact fun f => ⟨(TodTime.legal_iff _).mp (TodTime.legal_increment hclk) f, fun hm => by simp [commitBuffer] at hm⟩
    · exact hc

/-- Settles O16: a store brings in a legal byte, the tick commits and increments legal ones, and no other operation
writes the clock or its write-buffer. -/
theorem legalStoresKeepClockLegal : Obligations.LegalStoresKeepClockLegal := by
  intro i s t hs hi h
  by_cases hr : i = .reset
  · have hreset : Tod.reset.legal = true := by decide
    subst hr; cases h; exact hreset
  · rw [exec_tod hr h]
    cases i with
    | stTod10 v | stTodsec v | stTodmin v | stTodhr v => exact legal_todStored hs hi
    | todtick =>
      simp only [State.todAfter]
      split
      · exact legal_ticked hs _
      · exact hs
    | ldTodhr => simp only [State.todAfter, takeHold_eq]; exact hs
    | _ => exact hs

end Sys2Proof.Machine
end

section
/-! SUPPORT. The clause of 10_state.md R65 (g) about `tb.skip`: the moves that keep it, and the run of log entry 5 that
breaks it. -/

namespace Sys2Proof.Machine

/-! ## The moves that keep the clause -/

/-- A stopped Timer B has no tick to lose. -/
def NoSkip (s : State) : Prop := s.cia.regs.crb.getLsbD 0 = false → s.cia.tb.skip = 0

theorem stoppedHasNoSkip_iff (s : State) : s.cia.stoppedHasNoSkip = true ↔ NoSkip s := by
  simp only [Cia.stoppedHasNoSkip, NoSkip, or_eq_true_iff_imp, beq_iff_eq]

/-- No underflow of Timer A can charge a stopped Timer B: there is no loss, no restart in this cycle, or Timer B
runs. -/
def Uncharged (s : State) : Prop := s.cfg.tbBugLoss = 0 ∨ s.cia.tbRestart = false ∨ s.started .b = true

/-- The rest of an operation keeps the clause: a store to `CRB` and a stop clear `tb.skip` with START. -/
theorem Move.keeps_noSkip {s t : State} (h : Move .b s t) (hs : NoSkip s) : NoSkip t := by
  cases h with
  | quiet h =>
    have hcore : NoSkip t.core ↔ NoSkip s.core := by rw [h]
    exact hcore.mpr hs
  | portA => rw [updatePortA_eq]; exact hs
  | portB => rw [updatePortB_eq]; exact hs
  | spPin _ b => rw [emitSp_eq]; exact hs
  | cntPin _ b => rw [emitCnt_eq]; exact hs
  | evaluate => rw [evaluateIrq_eq]; exact hs
  | acknowledge => rw [releaseIrq_eq]; exact hs
  | storeCra _ v => rw [sdrModeChange_frame, controlStored_eq]; exact hs
  | storeCrb _ v =>
    obtain ⟨-, h0, -⟩ := storedControl_getLsbD v
    rw [restartMarked_eq, controlStored_eq]
    intro hstop
    have hv : v.getLsbD 0 = false := h0.symm.trans hstop
    exact if_neg (Bool.eq_false_iff.mp hv)
  | stopB =>
    unfold oneShotStopB
    split
    · exact fun _ => rfl
    · exact hs
  | loseTick => exact fun hstop => by simp [hs hstop]
  | latch | serial | waitB | cycleOver => exact hs

/-- Timer A's part keeps the clause where it cannot charge a stopped Timer B, and stays unable to. -/
theorem Move.keeps_noSkip_uncharged {s t : State} (h : Move .a s t) (hs : NoSkip s ∧ Uncharged s) :
    NoSkip t ∧ Uncharged t := by
  cases h with
  | quiet h =>
    have hcore : NoSkip t.core ∧ Uncharged t.core ↔ NoSkip s.core ∧ Uncharged s.core := by rw [h]
    exact hcore.mpr hs
  | spPin _ b => rw [emitSp_eq]; exact hs
  | cntPin _ b => rw [emitCnt_eq]; exact hs
  | evaluate => rw [evaluateIrq_eq]; exact hs
  | stopA => rw [oneShotStopA_eq]; exact hs
  | chargeB =>
    rw [tbBugCheck_eq]
    obtain ⟨hskip, hcharge⟩ := hs
    refine ⟨fun hstop => ?_, .inr (.inl rfl)⟩
    have hloss : (if s.cia.tbRestart then s.cfg.tbBugLoss else 0) = 0 := by
      rcases hcharge with h | h | h
      · simp [h]
      · simp [h]
      · exact absurd (hstop.symm.trans h) Bool.false_ne_true
    simp only [hskip hstop, hloss]
  | latch | serial | waitA => exact hs

/-- Every step keeps the clause but one that finds a loss, a restart in this cycle and Timer B stopped. -/
theorem step_keeps_noSkip {s t : State} (hs : NoSkip s) (hc : Uncharged s) (h : step s = .next t) : NoSkip t := by
  rcases step_cases h with rfl | ⟨i, rest, h⟩
  · exact hs
  · by_cases hr : i = .reset
    · subst hr; cases h; exact fun _ => rfl
    · obtain ⟨u, ha, hb⟩ := performed_of_exec hr h
      have hu := moves_keep (P := fun s => NoSkip s ∧ Uncharged s) (fun _ _ => Move.keeps_noSkip_uncharged) ha ⟨hs, hc⟩
      exact moves_keep (fun _ _ => Move.keeps_noSkip) hb hu.1

/-! ## The run that breaks it (log entry 5) -/

/-- The twelve operations: a one-shot Timer B, restarted, underflows on the first edge of CNT, which stops it; Timer A's
underflow on the second, in the same cycle, charges it. -/
def skipRun : List Instr :=
  [.stTalo 0x02, .stTahi 0x00, .stTblo 0x01, .stTbhi 0x00, .stCra 0x21, .stCrb 0x29, .phi2, .stCrb 0x39, .cnt false,
    .cnt true, .cnt false, .cnt true]

/-- What the run leaves on either part: Timer B stopped with the whole loss to lose, and the rest of R65 intact. -/
theorem skipRun_leaves (c : Config) : ∃ t, execList skipRun (.resetWith c) = .next t ∧
    t.started .b = false ∧ t.cia.tb.skip = c.tbBugLoss ∧ t.inv = true := by
  obtain ⟨m, k, id, loss, delay⟩ := c
  cases m with
  | old6526 | new6526A => exact ⟨_, by cbv, by cbv, by cbv; cases loss <;> simp, by cbv⟩

/-- Settles O17: the run of log entry 5 breaks the clause, and each phase of a step keeps it where Timer A's part cannot
charge a stopped Timer B. -/
theorem skipClauseNotKept : Obligations.SkipClauseNotKept := by
  constructor
  · intro c hc
    obtain ⟨t, hrun, hstop, hskip, hinv⟩ := skipRun_leaves c
    have hbroken : t.cia.stoppedHasNoSkip = false := by
      rw [Bool.eq_false_iff, ne_eq, stoppedHasNoSkip_iff]
      intro h
      have hzero : t.cia.tb.skip = 0 := h hstop
      omega
    exact ⟨t, hrun, hstop, hskip, hbroken, hinv⟩
  · intro s t hs hc h
    rw [stoppedHasNoSkip_iff] at hs ⊢
    exact step_keeps_noSkip hs hc h

end Sys2Proof.Machine
end

section
/-! SUPPORT. The reset values (10_state.md R68) and the invariants at the start of a run. -/

namespace Sys2Proof.Machine

/-- Settles O8: the table of 10_state.md R68, read off field by field. -/
theorem resetValues : Obligations.ResetValues := by
  have hregs : ∀ r, Regs.zero.get r = 0x00 := by intro r; cases r <;> rfl
  have htod : ∀ f, TodTime.zero.get f = 0x00 := by intro f; cases f <;> rfl
  exact ⟨hregs, rfl, rfl, rfl, rfl, rfl, fun f => ⟨htod f, htod f, htod f⟩, rfl, rfl, rfl, rfl, rfl, rfl, rfl, rfl, rfl,
    rfl, rfl, rfl, rfl, rfl, rfl, rfl, rfl, rfl, rfl, rfl, rfl, rfl, rfl⟩

/-- Settles O12: the reset values meet every clause, and an empty trace leaves the outputs where construction does. -/
theorem resetMeetsInvariants : Obligations.ResetMeetsInvariants := by
  intro c
  have hinv : (State.resetWith c).inv = true := (inv_iff_sound _).mpr (.of_reset rfl)
  have hmirror : (State.resetWith c).outputsMirrorTrace = true := (outputsMirrorTrace_iff _).mpr ⟨rfl, rfl⟩
  have hports : (State.resetWith c).portsPresented = true := by cbv
  have hclock : Tod.reset.legal = true := by decide
  exact ⟨hinv, hmirror, hports, hclock, rfl⟩

end Sys2Proof.Machine
end

section
/-! SUPPORT. What no rule reads is never observed (10_state.md R22, R23, R51): a procedure is blind if what it does,
seen without the view registers' shadow and the shifter's bits 15:9, depends only on the state seen so. Blind
procedures compose, and every operation is one. -/

namespace Sys2Proof.Machine

/-! ## The state as rules see it -/

/-- The state without what no rule reads, the pending words and the trace. -/
def State.seen (s : State) : State := { cia := s.cia.observable, cfg := s.cfg, script := [], trace := [], ret := s.ret }

theorem State.seen_seen (s : State) : s.seen.seen = s.seen := by
  simp only [State.seen, Cia.observable, BitVec.and_assoc, BitVec.and_self]
  rfl

/-- What `f` does, seen so, depends only on the state seen so; and so do the events it appends. -/
def Blind (f : State → State) : Prop :=
  ∀ s, (f s).seen = (f s.seen).seen ∧ (f s).trace = s.trace ++ (f s.seen).trace

/-- The same for a procedure that also answers a value. -/
def BlindPair {α : Type} (f : State → State × α) : Prop := Blind (fun s => (f s).1) ∧ ∀ s, (f s.seen).2 = (f s).2

section
variable {α : Type} {f g : State → State}

theorem Blind.id : Blind fun s => s := fun s => ⟨(State.seen_seen s).symm, (List.append_nil _).symm⟩

/-- One blind procedure after another. -/
theorem Blind.comp (hg : Blind g) (hf : Blind f) : Blind fun s => g (f s) := by
  intro s
  obtain ⟨hf1, hf2⟩ := hf s
  obtain ⟨hg1, hg2⟩ := hg (f s)
  obtain ⟨hk1, hk2⟩ := hg (f s.seen)
  rw [← hf1] at hk1 hk2
  exact ⟨hg1.trans hk1.symm, by rw [hg2, hf2, hk2, List.append_assoc]⟩

/-- A choice by what the rules see. -/
theorem Blind.ite {c : State → Prop} [∀ s, Decidable (c s)] (hc : ∀ s, c s.seen ↔ c s) (hf : Blind f) (hg : Blind g) :
    Blind fun s => if c s then f s else g s := by
  intro s
  by_cases h : c s
  · simpa only [if_pos h, if_pos ((hc s).mpr h)] using hf s
  · simpa only [if_neg h, if_neg (mt (hc s).mp h)] using hg s

/-- An operand read from what the rules see. -/
theorem Blind.operand {F : α → State → State} {c : State → α} (hc : ∀ s, c s.seen = c s) (hF : ∀ a, Blind (F a)) :
    Blind fun s => F (c s) s := by
  intro s
  simpa only [hc s] using hF (c s) s

/-- A procedure that commutes with leaving the unread parts out. -/
theorem Blind.of_commutes (h : ∀ s, (f s).seen = { f s.seen with trace := [] })
    (ht : ∀ s, (f s).trace = s.trace ++ (f s.seen).trace) : Blind f := by
  intro s
  refine ⟨?_, ht s⟩
  rw [h s, h s.seen, State.seen_seen]

/-- The same for a procedure that emits nothing. -/
theorem Blind.of_silent (h : ∀ s, (f s).seen = f s.seen := by intro; rfl)
    (ht : ∀ s, (f s).trace = s.trace := by intro; rfl) : Blind f := by
  intro s
  refine ⟨?_, ?_⟩
  · rw [h s, h s.seen, State.seen_seen]
  · rw [ht s, ht s.seen]
    exact (List.append_nil _).symm

theorem BlindPair.of_blind (hf : Blind f) (a : α) : BlindPair fun s => (f s, a) := ⟨hf, fun _ => rfl⟩

theorem BlindPair.ite {p q : State → State × α} {c : State → Prop} [∀ s, Decidable (c s)] (hc : ∀ s, c s.seen ↔ c s)
    (hp : BlindPair p) (hq : BlindPair q) : BlindPair fun s => if c s then p s else q s := by
  refine ⟨?_, fun s => ?_⟩
  · simpa only [apply_ite Prod.fst] using hp.1.ite hc hq.1
  · by_cases h : c s
    · simpa only [if_pos h, if_pos ((hc s).mpr h)] using hp.2 s
    · simpa only [if_neg h, if_neg (mt (hc s).mp h)] using hq.2 s

/-- A procedure that takes its operand from the one before it. -/
theorem BlindPair.bind {F : α → State → State} {p : State → State × α} (hp : BlindPair p) (hF : ∀ a, Blind (F a)) :
    Blind fun s => F (p s).2 (p s).1 := by
  intro s
  simpa only [hp.2 s] using (hF (p s).2).comp hp.1 s

end

/-! ## The state's own operations -/

theorem silent_blind : Blind State.silent := .of_silent

theorem answer_blind {v : State → Byte} (hv : ∀ s, v s.seen = v s) : Blind fun s => s.answer (v s) :=
  .operand (F := fun v s => s.answer v) hv fun _ => .of_silent

theorem Regs.storage_set (f : Regs) (r : Reg) (v : Byte) : (f.storage.set r v).storage = (f.set r v).storage := by
  cases r <;> rfl

theorem setReg_blind (r : Reg) (v : Byte) : Blind fun s => s.setReg r v := by
  intro s
  refine ⟨?_, (List.append_nil _).symm⟩
  change { s.seen with cia.regs := (s.cia.regs.set r v).storage } =
    { s.seen.seen with cia.regs := (s.cia.regs.storage.set r v).storage }
  rw [State.seen_seen, Regs.storage_set]

theorem loadView_blind (r : Reg) {v : State → Byte} (hv : ∀ s, v s.seen = v s) : Blind fun s => s.loadView r (v s) :=
  .operand (F := fun v s => s.loadView r v) hv fun v =>
    .comp (.of_silent (f := fun s => s.answer v)) (setReg_blind r v)

theorem updatePortA_blind : Blind updatePortA :=
  .of_commutes (fun s => by simp only [updatePortA_eq]; rfl) (fun s => by simp only [updatePortA_eq]; rfl)

theorem updatePortB_blind : Blind updatePortB :=
  .of_commutes (fun s => by simp only [updatePortB_eq]; rfl) (fun s => by simp only [updatePortB_eq]; rfl)

theorem emitSp_blind (b : Bool) : Blind fun s => emitSp s b :=
  .of_commutes (fun s => by simp only [emitSp_eq]; rfl) (fun s => by simp only [emitSp_eq]; rfl)

theorem emitCnt_blind (b : Bool) : Blind fun s => emitCnt s b :=
  .of_commutes (fun s => by simp only [emitCnt_eq]; rfl) (fun s => by simp only [emitCnt_eq]; rfl)

theorem evaluateIrq_blind : Blind evaluateIrq :=
  .of_commutes (fun s => by simp only [evaluateIrq_eq]; rfl) (fun s => by simp only [evaluateIrq_eq]; rfl)

theorem raiseSource_blind (src : Source) : Blind (raiseSource src) := by
  have hlatch : Blind fun s => { s with cia.icr.flags := s.cia.icr.flags ||| src.bit } :=
    .of_silent
  exact (evaluateIrq_blind.comp hlatch :)

theorem releaseIrq_blind : Blind releaseIrq :=
  .of_commutes (fun s => by simp only [releaseIrq_eq]; rfl) (fun s => by simp only [releaseIrq_eq]; rfl)

/-! ## The serial port -/

/-- The bits that rules read are the low nine: a shift by one takes no other bit into them. -/
theorem shifter_seen (x y : Half) :
    ((x &&& 0x01FF#16) <<< 1 ||| y) &&& 0x01FF#16 = (x <<< 1 ||| y) &&& 0x01FF#16 := by
  have hm : ∀ i : Fin 16, (0x01FF#16).getLsbD i = true → (0x01FF#16).getLsbD (i - 1 : Nat) = true := by decide
  apply BitVec.eq_of_getLsbD_eq
  intro i hi
  simp only [BitVec.getLsbD_and, BitVec.getLsbD_or, BitVec.getLsbD_shiftLeft]
  cases h : (0x01FF#16).getLsbD i
  · simp
  · simp [hm ⟨i, hi⟩ h]

theorem shifter_lowByte (x y : Half) : lowByte ((x &&& 0x01FF#16) <<< 1 ||| y) = lowByte (x <<< 1 ||| y) := by
  have hm : ∀ i : Fin 8, (0x01FF#16).getLsbD (i - 1 : Nat) = true := by decide
  apply BitVec.eq_of_getLsbD_eq
  intro i hi
  have hlow := hm ⟨i, hi⟩
  simp only [lowByte, BitVec.getLsbD_extractLsb', BitVec.getLsbD_or, BitVec.getLsbD_shiftLeft, BitVec.getLsbD_and,
    Nat.zero_add, hlow, Bool.and_true]

theorem drivePins_blind (b : Bool) : Blind fun s => drivePins s b :=
  .comp (emitCnt_blind true) (.comp (emitSp_blind b) (emitCnt_blind false))

theorem loadShifter_blind : Blind loadShifter := fun _ => ⟨rfl, (List.append_nil _).symm⟩

theorem completeOutput_blind : Blind completeOutput := by
  have hforced : Blind fun s =>
      { s with cia.sdr.forceFinish := false, cia.sdr.valid := false, cia.sdr.delay := 0 } :=
    .of_silent
  have hnext : Blind fun s => if s.byteReady then loadShifter s else s :=
    .ite (fun _ => Iff.rfl) loadShifter_blind .id
  have hdone : Blind fun s => { s with cia.sdr.bits := 0, cia.sdr.inflight := false } :=
    .of_silent
  have hreload := Blind.ite (c := fun s => s.cia.sdr.forceFinish = true) (fun _ => Iff.rfl) hforced hnext
  exact (hreload.comp ((raiseSource_blind .sdr).comp hdone) :)

theorem countShiftOut_blind : Blind countShiftOut :=
  .ite (c := fun s => s.cia.sdr.bits + 1 = 8) (fun _ => Iff.rfl) completeOutput_blind
    .of_silent

theorem shiftOut_blind : Blind shiftOut := by
  have hshift : Blind fun s => { s with cia.sdr.shifter := s.cia.sdr.shifter <<< 1 } := fun s => by
    have hx := shifter_seen s.cia.sdr.shifter 0#16
    rw [BitVec.or_zero, BitVec.or_zero] at hx
    exact ⟨congrArg (fun x => { s.seen with cia.sdr.shifter := x }) hx.symm, (List.append_nil _).symm⟩
  have hbit : ∀ s : State, s.seen.cia.sdr.shifter.getLsbD 7 = s.cia.sdr.shifter.getLsbD 7 := fun s => by
    simp [State.seen, Cia.observable]
  have hdriven : Blind bitDriven :=
    .operand (F := fun b s => drivePins { s with cia.sdr.shifter := s.cia.sdr.shifter <<< 1 } b) hbit
      fun b => .comp (drivePins_blind b) hshift
  have h : shiftOut = fun s => countShiftOut (bitDriven s) := funext shiftOut_eq
  rw [h]
  exact .comp countShiftOut_blind hdriven

theorem sdrClock_blind : Blind sdrClock :=
  .ite (c := fun s => (!s.serialOut && !s.cia.sdr.forceFinish) = true) (fun _ => Iff.rfl) .id
    (.ite (c := fun s => s.cia.sdr.inflight = true) (fun _ => Iff.rfl) shiftOut_blind
      (.ite (c := fun s => s.byteReady = true) (fun _ => Iff.rfl) (.comp shiftOut_blind loadShifter_blind) .id))

theorem sdrShiftIn_blind : Blind sdrShiftIn := by
  have hcounted : Blind fun s => { s with
      cia.sdr.shifter := s.cia.sdr.shifter <<< 1 ||| (BitVec.ofBool s.cia.sp).setWidth 16
      cia.sdr.bits := s.cia.sdr.bits + 1 } := fun s =>
    ⟨congrArg (fun x => { s.seen with cia.sdr.shifter := x, cia.sdr.bits := s.cia.sdr.bits + 1 })
      (shifter_seen _ _).symm, (List.append_nil _).symm⟩
  have hbyte : Blind fun s => { s with
      cia.sdr.shifter := s.cia.sdr.shifter <<< 1 ||| (BitVec.ofBool s.cia.sp).setWidth 16
      cia.sdr.bits := 0
      cia.regs.sdr := lowByte (s.cia.sdr.shifter <<< 1 ||| (BitVec.ofBool s.cia.sp).setWidth 16) } := fun s =>
    ⟨congrArg₂ (fun x v => { s.seen with cia.sdr.shifter := x, cia.sdr.bits := 0, cia.regs.sdr := v })
      (shifter_seen _ _).symm (shifter_lowByte _ _).symm, (List.append_nil _).symm⟩
  have h : sdrShiftIn = _ := funext sdrShiftIn_eq
  rw [h]
  exact .ite (c := fun s => s.cia.sdr.bits = 7) (fun _ => Iff.rfl) (.comp (raiseSource_blind .sdr) hbyte) hcounted

theorem sdrModeChange_blind (o n : Bool) : Blind (sdrModeChange o n) := by
  cases o <;> cases n
  · exact .id
  · exact .ite (c := fun s => s.cia.sdr.forceFinish = true) (fun _ => Iff.rfl) .of_silent
      fun _ => ⟨rfl, (List.append_nil _).symm⟩
  · exact .ite (c := fun s => s.cia.sdr.inflight = true) (fun _ => Iff.rfl) .of_silent
      .of_silent
  · exact .id

/-! ## The timers -/

theorem underflowA_blind : Blind underflowA := by
  have hstop : Blind oneShotStopA :=
    .of_silent (fun s => by simp only [oneShotStopA_eq]; rfl) fun s => by rw [oneShotStopA_eq]
  have hcharge : Blind tbBugCheck :=
    .of_silent (fun s => by simp only [tbBugCheck_eq]; rfl) fun s => by rw [tbBugCheck_eq]
  have hreload : Blind fun s => s.setTimer .a s.cia.ta.reload := .of_silent
  exact (sdrClock_blind.comp (hcharge.comp ((raiseSource_blind .ta).comp (hstop.comp hreload))) :)

theorem underflowB_blind : Blind underflowB := by
  have hstop : Blind oneShotStopB :=
    .of_silent (fun s => by simp only [oneShotStopB_eq]; rfl) fun s => by rw [oneShotStopB_eq]
  have hreload : Blind fun s => s.setTimer .b s.cia.tb.toTimer.reload := .of_silent
  exact ((raiseSource_blind .tb).comp (hstop.comp hreload) :)

theorem countA_blind : BlindPair countA := by
  have hcount : Blind fun s => { s with cia.ta.count := countDown s.cia.ta.count } :=
    .of_silent
  exact .ite (c := fun s => countDown s.cia.ta.count = 0) (fun _ => Iff.rfl)
    (.of_blind (.comp underflowA_blind hcount) true) (.of_blind hcount false)

theorem countB_blind : Blind countB := by
  have hcount : Blind fun s => { s with cia.tb.count := countDown s.cia.tb.count } :=
    .of_silent
  exact .ite (c := fun s => 0 < s.cia.tb.skip) (fun _ => Iff.rfl) .of_silent
    (.ite (c := fun s => countDown s.cia.tb.count = 0) (fun _ => Iff.rfl) (.comp underflowB_blind hcount) hcount)

theorem phi2Cycle_blind : Blind phi2Cycle := by
  have hwaitA : Blind fun s => { s with cia.ta.delay := s.cia.ta.delay - 1 } := .of_silent
  have hwaitB : Blind fun s => { s with cia.tb.delay := s.cia.tb.delay - 1 } := .of_silent
  have hover : Blind fun s => { s with cia.tbRestart := false } := .of_silent
  have hbegin : Blind phi2Begin := .of_silent
  have hidle : BlindPair fun s => (s, false) := .of_blind .id false
  have hA : BlindPair phi2TimerA :=
    .ite (c := fun s => s.started .a = true) (fun _ => Iff.rfl)
      (.ite (c := fun s => 0 < s.cia.ta.delay) (fun _ => Iff.rfl) (.of_blind hwaitA false)
        (.ite (c := fun s => s.countsCntA = true) (fun _ => Iff.rfl) hidle countA_blind))
      hidle
  have hB (uA : Bool) : Blind (phi2TimerB uA) :=
    .ite (c := fun s => s.started .b = true) (fun _ => Iff.rfl)
      (.ite (c := fun s => 0 < s.cia.tb.delay) (fun _ => Iff.rfl) hwaitB
        (.ite (c := fun s => s.phi2TicksB uA = true) (fun _ => Iff.rfl) countB_blind .id))
      .id
  have hboth : Blind fun s => phi2TimerB (phi2TimerA s).2 (phi2TimerA s).1 := hA.bind hB
  exact (updatePortB_blind.comp (hover.comp (hboth.comp hbegin)) :)

theorem cntRising_blind : Blind cntRising := by
  have hidle : BlindPair fun s => (s, false) := .of_blind .id false
  have hA : BlindPair cntTimerA :=
    .ite (c := fun s => (s.started .a && s.countsCntA && s.cia.ta.delay == 0) = true) (fun _ => Iff.rfl)
      countA_blind hidle
  have hB (uA : Bool) : Blind (cntTimerB uA) :=
    .ite (c := fun s => (s.started .b && s.cia.tb.delay == 0 && s.cntTicksB uA) = true) (fun _ => Iff.rfl)
      countB_blind .id
  have hserial : Blind fun s => if s.serialIn then sdrShiftIn s else s :=
    .ite (c := fun s => s.serialIn = true) (fun _ => Iff.rfl) sdrShiftIn_blind .id
  exact (updatePortB_blind.comp (hserial.comp (hA.bind hB)) :)

/-- A latch store, whose latch is made of the old one. -/
theorem latchStored_blind (t : TimerId) (r : Reg) (v : Byte) {latch : State → Half} (hl : ∀ s, latch s.seen = latch s) :
    Blind fun s => latchWritten t ((s.setReg r v).setTimer t { (s.setReg r v).timer t with latch := latch s }) := by
  have hwritten : Blind (latchWritten t) :=
    .of_silent (fun s => by simp only [latchWritten_eq]; cases t <;> rfl)
      fun s => by rw [latchWritten_eq, State.setTimer_trace]
  have hlatch (x : Half) : Blind fun s => s.setTimer t { s.timer t with latch := x } :=
    .of_silent (fun s => by cases t <;> rfl) fun s => State.setTimer_trace _ _ _
  exact .operand hl (F := fun x s =>
    latchWritten t ((s.setReg r v).setTimer t { (s.setReg r v).timer t with latch := x })) fun x =>
      .comp hwritten (.comp (hlatch x) (setReg_blind r v))

theorem controlStored_blind (t : TimerId) (v : Byte) : Blind (controlStored t v) :=
  .of_silent (fun s => by simp only [controlStored_eq]; cases t <;> rfl) fun s => by
    rw [controlStored_eq, State.setTimer_trace, State.setReg_trace]

theorem restartMarked_blind (old v : Byte) : Blind (restartMarked old v) :=
  .of_silent (fun s => by simp only [restartMarked_eq]; rfl) fun s => by rw [restartMarked_eq]

/-! ## The clock -/

theorem todStore_blind (f : TodField) (v : Byte) : Blind (todStore f v) := by
  have halarm : Blind fun s => { s with cia.tod.alarm := s.cia.tod.alarm.set f v } :=
    .of_silent
  have hclock : Blind fun s => { s with cia.tod := clockStorePlace f v (clockStoreGate f s.cia.tod) } :=
    .of_silent
  have hplace := Blind.ite (c := fun s => s.alarmMode = true) (fun _ => Iff.rfl) halarm hclock
  exact (hplace.comp ((setReg_blind f.reg v).comp silent_blind) :)

theorem todTick_blind : Blind todTick := by
  have hadvance : Blind tenthAdvanced := .of_silent
  have htenth : Blind todTenth :=
    .ite (c := fun s => s.cia.tod.clk.increment = s.cia.tod.alarm) (fun _ => Iff.rfl)
      (.comp (raiseSource_blind .tod) hadvance) hadvance
  have hsub : Blind todSubTick :=
    .ite (c := fun s => s.todDiv ≤ s.cia.tod.ticks + 1) (fun _ => Iff.rfl) htenth .of_silent
  have hcommit : Blind committed := .of_silent
  have hrun := Blind.ite (c := fun s => s.cia.tod.stopped = true) (fun _ => Iff.rfl) .id hsub
  exact (hrun.comp hcommit :)

/-! ## Every operation -/

/-- An operation that runs the blind procedure `f` on the state with no returned byte. -/
def Runs (i : Instr) : Prop := ∃ f, Blind f ∧ ∀ s, exec i s = .next (f s.silent)

/-- An operation that only answers a byte made of what the rules see. -/
theorem Runs.of_answer {i : Instr} {v : State → Byte} (h : ∀ s, exec i s = .next (s.answer (v s)))
    (hv : ∀ s, v s.seen = v s) (hret : ∀ s : State, v s.silent = v s) : Runs i :=
  ⟨_, answer_blind hv, fun s => by rw [h s, hret s]; rfl⟩

theorem peek_runs (r : Reg) : Runs (.ofPeek r) := by
  cases r <;> exact .of_answer (fun _ => rfl) (fun _ => rfl) fun _ => rfl

theorem load_runs (r : Reg) : Runs (.ofLoad r) := by
  cases r with
  | pra | prb | ddra | ddrb | sdr | cra | crb => exact .of_answer (fun _ => rfl) (fun _ => rfl) fun _ => rfl
  | talo => exact ⟨_, loadView_blind .talo (v := fun s => lowByte s.cia.ta.count) fun _ => rfl, fun _ => rfl⟩
  | tahi => exact ⟨_, loadView_blind .tahi (v := fun s => highByte s.cia.ta.count) fun _ => rfl, fun _ => rfl⟩
  | tblo => exact ⟨_, loadView_blind .tblo (v := fun s => lowByte s.cia.tb.count) fun _ => rfl, fun _ => rfl⟩
  | tbhi => exact ⟨_, loadView_blind .tbhi (v := fun s => highByte s.cia.tb.count) fun _ => rfl, fun _ => rfl⟩
  | todsec => exact ⟨_, loadView_blind .todsec (v := fun s => s.todRead .sec) fun _ => rfl, fun _ => rfl⟩
  | todmin => exact ⟨_, loadView_blind .todmin (v := fun s => s.todRead .min) fun _ => rfl, fun _ => rfl⟩
  | tod10 =>
    have hrelease : Blind fun s => { s with cia.tod.latched := false } := .of_silent
    have hload : Blind fun s => { s with cia.tod.latched := false }.loadView .tod10 (s.todRead .ten) :=
      .operand (F := fun v s => { s with cia.tod.latched := false }.loadView .tod10 v) (fun _ => rfl) fun v =>
        ((loadView_blind .tod10 (v := fun _ => v) fun _ => rfl).comp hrelease :)
    exact ⟨_, hload, fun _ => rfl⟩
  | todhr =>
    have hhold : Blind fun s => { s with cia.tod := takeHold s.cia.tod } := .of_silent
    exact ⟨_, (loadView_blind .todhr (v := fun s => s.cia.tod.snap.hr) fun _ => rfl).comp hhold, fun _ => rfl⟩
  | icr =>
    have hload : Blind fun s => (releaseIrq s).loadView .icr s.cia.icr.byte :=
      .operand (F := fun v s => (releaseIrq s).loadView .icr v) (fun _ => rfl) fun v =>
        ((loadView_blind .icr (v := fun _ => v) fun _ => rfl).comp releaseIrq_blind :)
    refine ⟨_, hload, fun s => ?_⟩
    change Host.Outcome.next ((releaseIrq s).loadView .icr s.cia.icr.byte) = _
    rw [releaseIrq_eq, releaseIrq_eq]
    rfl

theorem store_runs (r : Reg) (v : Byte) : Runs (.ofStore r v) := by
  cases r with
  | pra => exact ⟨_, updatePortA_blind.comp (setReg_blind .pra v), fun _ => rfl⟩
  | ddra => exact ⟨_, updatePortA_blind.comp (setReg_blind .ddra v), fun _ => rfl⟩
  | prb => exact ⟨_, updatePortB_blind.comp (setReg_blind .prb v), fun _ => rfl⟩
  | ddrb => exact ⟨_, updatePortB_blind.comp (setReg_blind .ddrb v), fun _ => rfl⟩
  | talo =>
    exact ⟨_, latchStored_blind .a .talo v (latch := fun s => withLow s.cia.ta.latch v) fun _ => rfl, fun _ => rfl⟩
  | tahi =>
    exact ⟨_, latchStored_blind .a .tahi v (latch := fun s => withHigh s.cia.ta.latch v) fun _ => rfl, fun _ => rfl⟩
  | tblo =>
    exact ⟨_, latchStored_blind .b .tblo v (latch := fun s => withLow s.cia.tb.latch v) fun _ => rfl, fun _ => rfl⟩
  | tbhi =>
    exact ⟨_, latchStored_blind .b .tbhi v (latch := fun s => withHigh s.cia.tb.latch v) fun _ => rfl, fun _ => rfl⟩
  | tod10 => exact ⟨_, todStore_blind .ten v, fun _ => rfl⟩
  | todsec => exact ⟨_, todStore_blind .sec v, fun _ => rfl⟩
  | todmin => exact ⟨_, todStore_blind .min v, fun _ => rfl⟩
  | todhr => exact ⟨_, todStore_blind .hr v, fun _ => rfl⟩
  | sdr =>
    have hqueue : Blind fun s => { s with
        cia.sdr.valid := true, cia.sdr.delay := if s.cia.sdr.inflight then s.cfg.sdrDelay else 0 } :=
      .of_silent
    have hstore := Blind.ite (c := fun s => s.serialOut = true) (fun _ => Iff.rfl) hqueue .id
    exact ⟨_, hstore.comp (setReg_blind .sdr v), fun s => (apply_ite Host.Outcome.next _ _ _).symm⟩
  | icr =>
    have hmask : Blind fun s => { s with cia.icr.mask := s.cia.icr.maskAfter v } := .of_silent
    exact ⟨_, evaluateIrq_blind.comp (hmask.comp (setReg_blind .icr v)), fun _ => rfl⟩
  | cra =>
    have hmode : Blind fun s => sdrModeChange ((s.reg .cra).getLsbD 6) (v.getLsbD 6) (controlStored .a v s) :=
      .operand (F := fun o s => sdrModeChange o (v.getLsbD 6) (controlStored .a v s)) (fun _ => rfl) fun o =>
        (sdrModeChange_blind o _).comp (controlStored_blind .a v)
    exact ⟨_, updatePortB_blind.comp hmode, fun _ => rfl⟩
  | crb =>
    have hrestart : Blind fun s => restartMarked (s.reg .crb) v (controlStored .b v s) :=
      .operand (F := fun old s => restartMarked old v (controlStored .b v s)) (fun _ => rfl) fun old =>
        (restartMarked_blind old v).comp (controlStored_blind .b v)
    exact ⟨_, updatePortB_blind.comp hrestart, fun _ => rfl⟩

/-- `RESET`: the announcement is made of levels, and then nothing of the old record is left. -/
theorem reset_runs : Runs .reset := by
  have hreset : Blind fun s => { announceReset s with cia := .reset } :=
    fun s => by simp only [announceReset_eq]; exact ⟨rfl, rfl⟩
  exact ⟨_, hreset, fun _ => rfl⟩

theorem event_runs (e : Event) : Runs (.ofEvent e) := by
  have hlive {f : State → State} (hf : Blind f) : Blind fun s => if s.cia.enabled then f s else s :=
    .ite (c := fun s => s.cia.enabled = true) (fun _ => Iff.rfl) hf .id
  cases e with
  | phi2 => exact ⟨_, hlive phi2Cycle_blind, fun s => (apply_ite Host.Outcome.next _ _ _).symm⟩
  | todtick => exact ⟨_, hlive todTick_blind, fun s => (apply_ite Host.Outcome.next _ _ _).symm⟩
  | flag => exact ⟨_, hlive (raiseSource_blind .flg), fun s => (apply_ite Host.Outcome.next _ _ _).symm⟩
  | cnt level =>
    have hset : Blind fun s => { s with cia.cnt := level } := .of_silent
    have hedge : Blind fun s =>
        if s.cia.enabled && (!s.cia.cnt && level) then cntRising { s with cia.cnt := level }
        else { s with cia.cnt := level } :=
      .ite (c := fun s => (s.cia.enabled && (!s.cia.cnt && level)) = true) (fun _ => Iff.rfl)
        (cntRising_blind.comp hset) hset
    exact ⟨_, hedge, fun s => (apply_ite Host.Outcome.next _ _ _).symm⟩
  | setsdr v =>
    have hbits : Blind fun s => { s with cia.sdr.bits := 0 } := .of_silent
    have hbyte : Blind fun s => raiseSource .sdr { s.setReg .sdr v with cia.sdr.bits := 0 } :=
      (raiseSource_blind .sdr).comp (hbits.comp (setReg_blind .sdr v))
    have htaken := Blind.ite (c := fun s => (s.cia.enabled && s.serialIn) = true) (fun _ => Iff.rfl) hbyte .id
    exact ⟨_, htaken, fun s => (apply_ite Host.Outcome.next _ _ _).symm⟩
  | reset => exact reset_runs
  | sp level => exact ⟨fun s => { s with cia.sp := level }, .of_silent, fun _ => rfl⟩
  | pina v => exact ⟨fun s => { s with cia.extA := v }, .of_silent, fun _ => rfl⟩
  | pinb v => exact ⟨fun s => { s with cia.extB := v }, .of_silent, fun _ => rfl⟩
  | disable => exact ⟨fun s => { s with cia.enabled := false }, .of_silent, fun _ => rfl⟩

theorem exec_runs (i : Instr) : Runs i := by
  rw [← Instr.ofShape_shape i]
  cases i.shape with
  | load r => exact load_runs r
  | store r v => exact store_runs r v
  | peek r => exact peek_runs r
  | event e => exact event_runs e

/-! ## Every list of operations -/

theorem seen_eq_iff (s t : State) : s.seen = t.seen ↔ s.indistinct t ∧ s.ret = t.ret := by
  simp only [State.seen, State.indistinct, State.mk.injEq, true_and]
  tauto

/-- Two states seen alike answer alike: the same events, and states seen alike again. -/
def Agree (a b : Answer) (s t : State) : Prop :=
  ∃ s' t' es, a = .next s' ∧ b = .next t' ∧ s'.seen = t'.seen ∧ s'.trace = s.trace ++ es ∧ t'.trace = t.trace ++ es

theorem exec_agree (i : Instr) {s t : State} (h : s.silent.seen = t.silent.seen) : Agree (exec i s) (exec i t) s t := by
  obtain ⟨f, hf, hi⟩ := exec_runs i
  obtain ⟨hs, hstrace⟩ := hf s.silent
  obtain ⟨ht, httrace⟩ := hf t.silent
  rw [← h] at ht httrace
  exact ⟨_, _, _, hi s, hi t, hs.trans ht.symm, hstrace, httrace⟩

theorem execList_agree (is : List Instr) {s t : State} (h : s.seen = t.seen) :
    Agree (execList is s) (execList is t) s t := by
  induction is generalizing s t with
  | nil => exact ⟨s, t, [], rfl, rfl, h, by simp, by simp⟩
  | cons i is ih =>
    obtain ⟨s1, t1, es, hs, ht, h1, hstrace, httrace⟩ := exec_agree i (congrArg State.silent h)
    obtain ⟨s2, t2, fs, hs2, ht2, h2, hstrace2, httrace2⟩ := ih h1
    refine ⟨s2, t2, es ++ fs, ?_, ?_, h2, by rw [hstrace2, hstrace, List.append_assoc],
      by rw [httrace2, httrace, List.append_assoc]⟩
    · rw [execList, hs]; exact hs2
    · rw [execList, ht]; exact ht2

/-- The byte an earlier operation returned is forgotten by the next. -/
theorem execList_silent (i : Instr) (is : List Instr) (s : State) :
    execList (i :: is) s.silent = execList (i :: is) s := by
  obtain ⟨f, -, hi⟩ := exec_runs i
  rw [execList, execList, hi s, hi s.silent]
  rfl

/-- Settles O23: every operation is a blind procedure, so that a list of them is one by induction; its first operation
sets the returned byte. -/
theorem indistinctRunsAgree : Obligations.IndistinctRunsAgree := by
  intro is s t h
  cases is with
  | nil => exact ⟨s, t, [], rfl, rfl, h, fun hne => absurd rfl hne, by simp, by simp⟩
  | cons i is =>
    have hsilent : s.silent.seen = t.silent.seen := (seen_eq_iff _ _).mpr ⟨h, rfl⟩
    obtain ⟨s', t', es, hs, ht, hseen, hstrace, httrace⟩ := execList_agree (i :: is) hsilent
    rw [execList_silent] at hs ht
    obtain ⟨hind, hret⟩ := (seen_eq_iff _ _).mp hseen
    exact ⟨s', t', es, hs, ht, hind, fun _ => hret, hstrace, httrace⟩

end Sys2Proof.Machine
end


section
/-! SUPPORT. The bus and the step (20_memory.md R81, R87, R90): what a step runs, which register an address reaches, and
the byte that a peek and a load of a register both answer. -/

namespace Sys2Proof

/-! ## Words and addresses (R81) -/

theorem decodeTableWord_eq_some {nbits w : Nat} {i : Instr} :
    decodeTableWord nbits w = some i ↔ decode (tableWord nbits w) = .ok i := by
  unfold decodeTableWord
  cases decode (tableWord nbits w) <;> simp

theorem Reg.ofAddr_eq (addr : Nat) : Reg.ofAddr addr = .ofOffset (BitVec.ofNat 4 (addr % 16)) :=
  congrArg Reg.ofOffset (BitVec.eq_of_toNat_eq (by simp))

theorem Reg.offset_ofAddr (addr : Nat) : (Reg.ofAddr addr).offset.toNat = addr % 16 := by
  rw [Reg.ofAddr, Reg.offset_ofOffset, BitVec.toNat_ofNat]

end Sys2Proof

namespace Sys2Proof.Machine

/-! ## The step (R90) -/

theorem step_of_idle {s : State} (h : s.script = []) : step s = .next s := by
  simp only [step, stepFetched, h, fetch]

theorem step_of_pending {s : State} {w : Word} {rest : List Word} {i : Instr} (hs : s.script = w :: rest)
    (hw : decode w = .ok i) : step s = exec i { s with script := rest } := by
  simp only [step, stepFetched, hs, fetch, hw]

@[simp] theorem State.withFetchWord_script (s : State) (nbits w : Nat) :
    (s.withFetchWord nbits w).script = tableWord nbits w :: s.script := rfl

/-- Settles O6: the step's two cases, and the placed word is the oldest pending one. -/
theorem stepRunsPendingOperation : Obligations.StepRunsPendingOperation := by
  refine ⟨fun s w rest i => step_of_pending, fun s w i hw => ?_, fun s => step_of_idle⟩
  exact step_of_pending (s.withFetchWord_script 16 w) (decodeTableWord_eq_some.mp hw)

/-! ## The entry points (R81) -/

/-- Settles O7: an address reaches the register of its remainder by 16, and the entry points go by the register. -/
theorem addressMaskedToFourBits : Obligations.AddressMaskedToFourBits := by
  intro addr v s
  rw [memRead, memWrite, memPeek, ← Reg.ofAddr_eq]
  exact ⟨Reg.offset_ofAddr addr, rfl, rfl, rfl⟩

/-! ## The byte of a register (R87) -/

/-- The byte the bus sees at a register: the ports' pins, the live counts, the clock or its snapshot, the flags, and
elsewhere the shadow byte (10_state.md R23). -/
def State.busByte (s : State) : Reg → Byte
  | .pra => s.readA
  | .prb => s.readB
  | .talo => lowByte s.cia.ta.count
  | .tahi => highByte s.cia.ta.count
  | .tblo => lowByte s.cia.tb.count
  | .tbhi => highByte s.cia.tb.count
  | .tod10 => s.todRead .ten
  | .todsec => s.todRead .sec
  | .todmin => s.todRead .min
  | .todhr => s.todRead .hr
  | .icr => s.cia.icr.byte
  | r => s.reg r

theorem exec_ofPeek (r : Reg) (s : State) : exec (.ofPeek r) s = .next (s.answer (s.busByte r)) := by
  cases r <;> rfl

@[simp] theorem State.loadView_ret (s : State) (r : Reg) (v : Byte) : (s.loadView r v).ret = some v := rfl

/-- Taking the hold does not change what the clock shows: a hold keeps its snapshot, a new one copies the clock. -/
theorem takeHold_snap_get (s : State) (f : TodField) : (takeHold s.cia.tod).snap.get f = s.todRead f := by
  rw [takeHold_eq]
  exact apply_ite (TodTime.get · f) _ _ _

/-- A load answers the byte from before its own effects: the hours' hold does not change it, and the tenths' release
and the flags' acknowledge come after it is read. -/
theorem exec_ofLoad_ret (r : Reg) (s : State) : ∃ t, exec (.ofLoad r) s = .next t ∧ t.ret = some (s.busByte r) := by
  cases r with
  | pra | prb | ddra | ddrb | sdr | cra | crb => exact ⟨_, rfl, State.answer_ret s _⟩
  | talo | tahi | tblo | tbhi | todsec | todmin => exact ⟨_, rfl, State.loadView_ret s _ _⟩
  | tod10 | icr => exact ⟨_, rfl, State.loadView_ret _ _ _⟩
  | todhr => exact ⟨_, rfl, congrArg some (takeHold_snap_get s .hr)⟩

/-- Settles O24: every peek answers its register's byte and nothing else. -/
theorem peeksReturnAndChangeNothing : Obligations.PeeksReturnAndChangeNothing := by
  intro s
  have hpeek : ∀ r, exec (.ofPeek r) s = .next { s with ret := some (s.busByte r) } := fun r => exec_ofPeek r s
  exact ⟨hpeek .pra, hpeek .prb, hpeek .ddra, hpeek .ddrb, hpeek .talo, hpeek .tahi, hpeek .tblo, hpeek .tbhi,
    hpeek .tod10, hpeek .todsec, hpeek .todmin, hpeek .todhr, hpeek .sdr, hpeek .icr, hpeek .cra, hpeek .crb⟩

/-- Settles O25: both answer the register's byte. -/
theorem peekReturnsWhatLoadReturns : Obligations.PeekReturnsWhatLoadReturns := by
  intro r s
  obtain ⟨t, hload, hret⟩ := exec_ofLoad_ret r s
  exact ⟨s.busByte r, t, exec_ofPeek r s, hload, hret⟩

end Sys2Proof.Machine
end


section
/-! SUPPORT. The encoding (30_encoding.md R100 to R105): a word under a mask, field by field; which words decode to an
operation, shape by shape; and what the encoder writes. -/

namespace Sys2Proof

/-! ## A word and its fields (R100) -/

/-- Bits 13:12, ignored in a bus word (R102). -/
def ignoredOf (w : Word) : BitVec 2 := w.extractLsb' 12 2

@[simp] theorem ignoredOf_busWord (f : BitVec 2) (r : Reg) (d : Byte) : ignoredOf (busWord f r d) = 0 := by
  apply BitVec.eq_of_getLsbD_eq
  intro i hi
  simp only [ignoredOf, BitVec.getLsbD_extractLsb', getLsbD_busWord]
  rw [if_neg (by omega), if_neg (by omega), if_pos (by omega)]
  simp

@[simp] theorem fmtOf_and (w m : Word) : fmtOf (w &&& m) = fmtOf w &&& fmtOf m := BitVec.extractLsb'_and
@[simp] theorem ignoredOf_and (w m : Word) : ignoredOf (w &&& m) = ignoredOf w &&& ignoredOf m := BitVec.extractLsb'_and
@[simp] theorem regNoOf_and (w m : Word) : regNoOf (w &&& m) = regNoOf w &&& regNoOf m := BitVec.extractLsb'_and
@[simp] theorem codeOf_and (w m : Word) : codeOf (w &&& m) = codeOf w &&& codeOf m := BitVec.extractLsb'_and
@[simp] theorem dataOf_and (w m : Word) : dataOf (w &&& m) = dataOf w &&& dataOf m := BitVec.extractLsb'_and

theorem dataOf_eq_setWidth (w : Word) : dataOf w = w.setWidth 8 := (BitVec.setWidth_eq_extractLsb' (by omega)).symm

theorem toNat_eq_eventFields (w : Word) :
    w.toNat = (fmtOf w).toNat * 2 ^ 14 + (codeOf w).toNat * 2 ^ 8 + (dataOf w).toNat := by
  simp only [fmtOf, codeOf, dataOf, BitVec.extractLsb'_toNat, Nat.shiftRight_eq_div_pow]
  omega

theorem eq_of_eventFields_eq {v w : Word} (hfmt : fmtOf v = fmtOf w) (hcode : codeOf v = codeOf w)
    (hdata : dataOf v = dataOf w) : v = w := by
  apply BitVec.eq_of_toNat_eq
  rw [toNat_eq_eventFields v, toNat_eq_eventFields w, hfmt, hcode, hdata]

theorem codeOf_eq_append (w : Word) : codeOf w = ignoredOf w ++ regNoOf w :=
  (BitVec.extractLsb'_append_extractLsb'_eq_extractLsb' (start₁ := 8) (len₁ := 4) (start₂ := 12) (len₂ := 2) rfl).symm

theorem eq_of_busFields_eq {v w : Word} (hfmt : fmtOf v = fmtOf w) (hignored : ignoredOf v = ignoredOf w)
    (hreg : regNoOf v = regNoOf w) (hdata : dataOf v = dataOf w) : v = w :=
  eq_of_eventFields_eq hfmt (by rw [codeOf_eq_append, codeOf_eq_append, hignored, hreg]) hdata

/-! ## Match and mask (R104) -/

/-- A mask that keeps a bus word's format and register number makes the word canonical but for its data. -/
theorem and_eq_busWord (w : Word) {m : Word} (hfmt : fmtOf m = BitVec.allOnes 2) (hignored : ignoredOf m = 0)
    (hreg : regNoOf m = BitVec.allOnes 4) :
    w &&& m = busWord (fmtOf w) (.ofOffset (regNoOf w)) (dataOf w &&& dataOf m) := by
  apply eq_of_busFields_eq
  · rw [fmtOf_and, hfmt, BitVec.and_allOnes, fmtOf_busWord]
  · rw [ignoredOf_and, hignored, ignoredOf_busWord]
    exact BitVec.and_zero
  · rw [regNoOf_and, hreg, BitVec.and_allOnes, regNoOf_busWord, Reg.offset_ofOffset]
  · rw [dataOf_and, dataOf_busWord]

/-- A mask that keeps the format and the code leaves of an event word the argument under the mask. -/
theorem and_eq_eventWord {w m : Word} (hw : fmtOf w = 3) (hfmt : fmtOf m = BitVec.allOnes 2)
    (hcode : codeOf m = BitVec.allOnes 6) : w &&& m = eventWord (codeOf w) (dataOf w &&& dataOf m) := by
  apply eq_of_eventFields_eq
  · rw [fmtOf_and, hfmt, BitVec.and_allOnes, fmtOf_eventWord, hw]
    rfl
  · rw [codeOf_and, hcode, BitVec.and_allOnes, codeOf_eventWord]
  · rw [dataOf_and, dataOf_eventWord]

theorem busWord_inj {f g : BitVec 2} {q r : Reg} {a b : Byte} :
    busWord f q a = busWord g r b ↔ f = g ∧ q = r ∧ a = b := by
  constructor
  · intro h
    have hfmt := congrArg fmtOf h
    have hreg := congrArg (Reg.ofOffset <| regNoOf ·) h
    have hdata := congrArg dataOf h
    simpa using And.intro hfmt (And.intro hreg hdata)
  · rintro ⟨rfl, rfl, rfl⟩
    rfl

theorem and_busMask_eq_iff {w : Word} {f : BitVec 2} {r : Reg} :
    w &&& 0xCF00#16 = busWord f r 0 ↔ fmtOf w = f ∧ Reg.ofOffset (regNoOf w) = r := by
  rw [and_eq_busWord w rfl rfl rfl, busWord_inj]
  simp [show dataOf 0xCF00#16 = 0 from rfl]

theorem and_eventMask_eq_iff {w : Word} {c : BitVec 6} :
    w &&& 0xFF00#16 = eventWord c 0 ↔ fmtOf w = 3 ∧ codeOf w = c := by
  constructor
  · intro h
    have hfmt := congrArg fmtOf h
    have hcode := congrArg codeOf h
    rw [fmtOf_and, fmtOf_eventWord] at hfmt
    rw [codeOf_and, codeOf_eventWord] at hcode
    exact ⟨BitVec.and_allOnes.symm.trans hfmt, BitVec.and_allOnes.symm.trans hcode⟩
  · rintro ⟨h, rfl⟩
    rw [and_eq_eventWord h rfl rfl]
    exact congrArg (eventWord _) BitVec.and_zero

/-! ## Events (R101, R103) -/

/-- The canonical argument of an event: its operand, every ignored bit 0. -/
def Event.arg : Event → Byte
  | .cnt level | .sp level => levelArg level
  | .setsdr v | .pina v | .pinb v => v
  | .phi2 | .todtick | .flag | .reset | .disable => 0

/-- The bits of the argument that an event does not ignore. -/
def Event.argMask : Event → Byte
  | .cnt _ | .sp _ => 1
  | .setsdr _ | .pina _ | .pinb _ => BitVec.allOnes 8
  | .phi2 | .todtick | .flag | .reset | .disable => 0

theorem Event.code_lt (e : Event) : e.code.toNat < 10 := by
  cases e <;> simp [Event.code]

theorem Event.arg_and_argMask (e : Event) : e.arg &&& e.argMask = e.arg := by
  cases e with
  | cnt level | sp level => cases level <;> rfl
  | setsdr v | pina v | pinb v => exact BitVec.and_allOnes
  | phi2 | todtick | flag | reset | disable => rfl

theorem and_one_eq_levelArg (a : Byte) : a &&& 1 = levelArg (levelOf a) := by
  rw [levelOf]
  refine BitVec.and_one_eq_setWidth_ofBool_getLsbD.trans ?_
  cases a.getLsbD 0 <;> rfl

/-- The bits of the argument that an event ignores do not change what its code decodes to. -/
theorem decodeEvent_of_code {a : Byte} {e : Event} (h : a &&& e.argMask = e.arg) : decodeEvent e.code a = .ok e := by
  cases e with
  | phi2 | todtick | flag | reset | disable => rfl
  | cnt level | sp level =>
    have hlevel : levelOf a = level := by
      rw [← levelOf_levelArg level, ← levelOf_levelArg (levelOf a), ← and_one_eq_levelArg]
      exact congrArg levelOf h
    rw [← hlevel]
    rfl
  | setsdr v | pina v | pinb v =>
    have harg : a = v := BitVec.and_allOnes.symm.trans h
    rw [harg]
    rfl

theorem decodeEvent_eq_ok_iff {c : BitVec 6} {a : Byte} {e : Event} :
    decodeEvent c a = .ok e ↔ c = e.code ∧ a &&& e.argMask = e.arg := by
  constructor
  · intro h
    unfold decodeEvent at h
    split at h
    case h_11 => cases h
    all_goals cases h; refine ⟨BitVec.eq_of_toNat_eq ‹_›, ?_⟩
    case h_3.refl | h_4.refl => exact and_one_eq_levelArg a
    case h_6.refl | h_7.refl | h_8.refl => exact BitVec.and_allOnes
    all_goals exact BitVec.and_zero
  · rintro ⟨rfl, h⟩
    exact decodeEvent_of_code h

theorem decodeEvent_eq_error_iff {c : BitVec 6} {a : Byte} {r : Reject} :
    decodeEvent c a = .error r ↔ 10 ≤ c.toNat ∧ .reservedEvent c = r := by
  unfold decodeEvent
  split
  case h_11 =>
    simp only [imp_false] at *
    have hc : 10 ≤ c.toNat := by omega
    simp [hc]
  all_goals
    have hc : ¬ 10 ≤ c.toNat := by omega
    simp [hc]

/-! ## Which words decode to an operation (R100) -/

/-- The fields of `w` read as the operation of shape `x` (R100, R102, R103). -/
def Shape.ReadsFrom (w : Word) : Shape → Prop
  | .load r => fmtOf w = 0 ∧ Reg.ofOffset (regNoOf w) = r
  | .store r v => fmtOf w = 1 ∧ Reg.ofOffset (regNoOf w) = r ∧ dataOf w = v
  | .peek r => fmtOf w = 2 ∧ Reg.ofOffset (regNoOf w) = r
  | .event e => fmtOf w = 3 ∧ decodeEvent (codeOf w) (dataOf w) = .ok e

theorem Instr.ofShape_inj {x y : Shape} : Instr.ofShape x = .ofShape y ↔ x = y :=
  (Function.LeftInverse.injective Instr.shape_ofShape).eq_iff

theorem fmtOf_cases (w : Word) : fmtOf w = 0 ∨ fmtOf w = 1 ∨ fmtOf w = 2 ∨ fmtOf w = 3 := by
  generalize fmtOf w = f
  revert f
  decide

theorem decode_of_load {w : Word} (h : fmtOf w = 0) :
    decode w = .ok (.ofShape (.load (.ofOffset (regNoOf w)))) := by
  simp only [decode, h]
  rfl

theorem decode_of_store {w : Word} (h : fmtOf w = 1) :
    decode w = .ok (.ofShape (.store (.ofOffset (regNoOf w)) (dataOf w))) := by
  simp only [decode, h]
  rfl

theorem decode_of_peek {w : Word} (h : fmtOf w = 2) :
    decode w = .ok (.ofShape (.peek (.ofOffset (regNoOf w)))) := by
  simp only [decode, h]
  rfl

theorem decode_of_event {w : Word} (h : fmtOf w = 3) :
    decode w = (decodeEvent (codeOf w) (dataOf w)).map (.ofShape <| .event ·) := by
  simp only [decode, h]
  cases decodeEvent (codeOf w) (dataOf w) <;> rfl

theorem decode_eq_ok_ofShape_iff {w : Word} {x : Shape} : decode w = .ok (.ofShape x) ↔ x.ReadsFrom w := by
  obtain h | h | h | h := fmtOf_cases w
  · rw [decode_of_load h, Except.ok.injEq, Instr.ofShape_inj]
    cases x <;> simp [Shape.ReadsFrom, h]
  · rw [decode_of_store h, Except.ok.injEq, Instr.ofShape_inj]
    cases x <;> simp [Shape.ReadsFrom, h]
  · rw [decode_of_peek h, Except.ok.injEq, Instr.ofShape_inj]
    cases x <;> simp [Shape.ReadsFrom, h]
  · rw [decode_of_event h]
    cases hd : decodeEvent (codeOf w) (dataOf w) with
    | error r => cases x <;> simp [Shape.ReadsFrom, Except.map, h, hd]
    | ok e => cases x <;> simp [Shape.ReadsFrom, Except.map, Instr.ofShape_inj, h, hd]

theorem decode_eq_error_iff {w : Word} {r : Reject} :
    decode w = .error r ↔ fmtOf w = 3 ∧ 10 ≤ (codeOf w).toNat ∧ .reservedEvent (codeOf w) = r := by
  obtain h | h | h | h := fmtOf_cases w
  · simp [decode_of_load h, h]
  · simp [decode_of_store h, h]
  · simp [decode_of_peek h, h]
  · rw [decode_of_event h, ← decodeEvent_eq_error_iff]
    cases decodeEvent (codeOf w) (dataOf w) <;> simp [Except.map, h]

/-! ## What the encoder writes (R104) -/

theorem encodeEvent_eq (e : Event) : encodeEvent e = eventWord e.code e.arg := by cases e <;> rfl

theorem encode_readsFrom (x : Shape) : x.ReadsFrom (encode (.ofShape x)) := by
  rw [encode, Instr.shape_ofShape]
  cases x with
  | load r | peek r => exact ⟨fmtOf_busWord .., by rw [regNoOf_busWord, Reg.ofOffset_offset]⟩
  | store r v => exact ⟨fmtOf_busWord .., by rw [regNoOf_busWord, Reg.ofOffset_offset], dataOf_busWord ..⟩
  | event e =>
    simp only [Shape.ReadsFrom, encodeEvent_eq, fmtOf_eventWord, codeOf_eventWord, dataOf_eventWord]
    exact ⟨rfl, decodeEvent_of_code e.arg_and_argMask⟩

/-- Settles O1: every field of the encoded word reads back, and the fields decide what it decodes to. -/
theorem decodeInvertsEncode : Obligations.DecodeInvertsEncode := by
  intro i
  rw [← Instr.ofShape_shape i]
  exact decode_eq_ok_ofShape_iff.mpr (encode_readsFrom i.shape)

/-! ## The bits that are not ignored (R102, R103) -/

theorem significantBits_load (r : Reg) : significantBits (.ofShape (.load r)) = 0xCF00#16 := by
  simp only [significantBits, rowMask, Instr.shape_ofShape]
  rfl

theorem significantBits_store (r : Reg) (v : Byte) : significantBits (.ofShape (.store r v)) = 0xCFFF#16 := by
  simp only [significantBits, rowMask, Instr.shape_ofShape]
  rfl

theorem significantBits_peek (r : Reg) : significantBits (.ofShape (.peek r)) = 0xCF00#16 := by
  simp only [significantBits, rowMask, Instr.shape_ofShape]
  rfl

theorem significantBits_event (e : Event) :
    significantBits (.ofShape (.event e)) = eventWord (BitVec.allOnes 6) e.argMask := by
  simp only [significantBits, rowMask, Instr.shape_ofShape]
  cases e <;> rfl

theorem encode_eq_and_of_readsFrom {w : Word} {x : Shape} (h : x.ReadsFrom w) :
    encode (.ofShape x) = w &&& significantBits (.ofShape x) := by
  rw [encode, Instr.shape_ofShape]
  cases x with
  | load r =>
    rw [significantBits_load]
    exact (and_busMask_eq_iff.mpr h).symm
  | peek r =>
    rw [significantBits_peek]
    exact (and_busMask_eq_iff.mpr h).symm
  | store r v =>
    obtain ⟨hfmt, rfl, rfl⟩ := h
    rw [significantBits_store, and_eq_busWord w rfl rfl rfl, hfmt]
    exact congrArg (busWord _ _) BitVec.and_allOnes.symm
  | event e =>
    obtain ⟨hfmt, hd⟩ := h
    obtain ⟨hcode, harg⟩ := decodeEvent_eq_ok_iff.mp hd
    rw [significantBits_event, and_eq_eventWord hfmt (fmtOf_eventWord ..) (codeOf_eventWord ..), dataOf_eventWord,
      hcode, harg]
    exact encodeEvent_eq e

/-- Settles O2: under its significant bits the word keeps exactly the fields the operation was read from. -/
theorem encodeKeepsSignificantBits : Obligations.EncodeKeepsSignificantBits := by
  intro w i h
  rw [← Instr.ofShape_shape i] at h ⊢
  exact encode_eq_and_of_readsFrom (decode_eq_ok_ofShape_iff.mp h)

/-! ## Rows (R104, R110) -/

theorem busWord_zero (f : BitVec 2) (r : Reg) :
    busWord f r 0 = (f.setWidth 16 <<< 14) ||| (r.offset.setWidth 16 <<< 8) := by
  generalize hr : r.offset = a
  rw [busWord, hr]
  clear hr
  revert f a
  decide

theorem eventWord_zero (c : BitVec 6) : eventWord c 0 = 0xC000#16 ||| (c.setWidth 16 <<< 8) := by
  revert c
  decide

theorem decode_eq_ok_ofLoad_iff {w : Word} {r : Reg} :
    decode w = .ok (.ofLoad r) ↔ w &&& 0xCF00#16 = busWord 0 r 0 :=
  (decode_eq_ok_ofShape_iff (x := .load r)).trans and_busMask_eq_iff.symm

theorem decode_eq_ok_ofPeek_iff {w : Word} {r : Reg} :
    decode w = .ok (.ofPeek r) ↔ w &&& 0xCF00#16 = busWord 2 r 0 :=
  (decode_eq_ok_ofShape_iff (x := .peek r)).trans and_busMask_eq_iff.symm

theorem decode_eq_ok_ofStore_iff {w : Word} {r : Reg} {v : Byte} :
    decode w = .ok (.ofStore r v) ↔ w &&& 0xCF00#16 = busWord 1 r 0 ∧ v = dataOf w := by
  rw [and_busMask_eq_iff, and_assoc, eq_comm (a := v)]
  exact decode_eq_ok_ofShape_iff (x := .store r v)

theorem exists_decode_eq_ok_ofEvent_iff {w : Word} {c : BitVec 6} :
    (∃ e : Event, e.code = c ∧ decode w = .ok (.ofEvent e)) ↔ w &&& 0xFF00#16 = eventWord c 0 ∧ c.toNat < 10 := by
  rw [and_eventMask_eq_iff]
  constructor
  · rintro ⟨e, rfl, he⟩
    obtain ⟨hfmt, hd⟩ := (decode_eq_ok_ofShape_iff (x := .event e)).mp he
    exact ⟨⟨hfmt, (decodeEvent_eq_ok_iff.mp hd).1⟩, e.code_lt⟩
  · rintro ⟨⟨hfmt, rfl⟩, hc⟩
    cases hd : decodeEvent (codeOf w) (dataOf w) with
    | error r => exact absurd (decodeEvent_eq_error_iff.mp hd).1 (by omega)
    | ok e =>
      exact ⟨e, (decodeEvent_eq_ok_iff.mp hd).1.symm, (decode_eq_ok_ofShape_iff (x := .event e)).mpr ⟨hfmt, hd⟩⟩

theorem encode_and_not_significantBits (i : Instr) : encode i &&& ~~~significantBits i = 0 := by
  have h : encode i = encode i &&& significantBits i := encodeKeepsSignificantBits _ i (decodeInvertsEncode i)
  rw [h, BitVec.and_assoc, BitVec.and_not_self]
  exact BitVec.and_zero

theorem fmtOf_and_rowMask (w : Word) (i : Instr) : fmtOf (w &&& rowMask i) = fmtOf w := by
  have h : fmtOf (rowMask i) = BitVec.allOnes 2 := by
    unfold rowMask
    split <;> rfl
  rw [fmtOf_and, h, BitVec.and_allOnes]

/-- The format bits of a row's match say which of the two masks the row has. -/
theorem rowMask_eq (i : Instr) : rowMask i = if fmtOf (rowMatch i) = 3 then 0xFF00#16 else 0xCF00#16 := by
  obtain ⟨x, rfl⟩ : ∃ x, i = .ofShape x := ⟨i.shape, i.ofShape_shape.symm⟩
  have hread := encode_readsFrom x
  rw [← Laws.RowMatches.of_shape x, fmtOf_and_rowMask, rowMask, Instr.shape_ofShape]
  cases x with
  | load r | peek r | store r v | event e => rw [hread.1]; rfl

theorem row_unique {w : Word} {i j : Instr} (hi : w &&& rowMask i = rowMatch i) (hj : w &&& rowMask j = rowMatch j) :
    rowMask i = rowMask j ∧ rowMatch i = rowMatch j := by
  have hmask : rowMask i = rowMask j := by
    rw [rowMask_eq, rowMask_eq j, ← hi, ← hj, fmtOf_and_rowMask, fmtOf_and_rowMask]
  exact ⟨hmask, by rw [← hi, ← hj, hmask]⟩

/-- Settles O3: a word under a row's mask is the row's match exactly if the fields are the row's; the ignored bits of a
canonical word are 0 by O1 and O2; and the format bits of a word under either mask are the word's, so that two rows
that match it have the same mask. -/
theorem decodeByMatchAndMask : Obligations.DecodeByMatchAndMask := by
  refine ⟨fun w r => ⟨?_, ?_, fun v => ?_⟩, fun w c => ?_, encode_and_not_significantBits, fun w i j => row_unique⟩
  · exact decode_eq_ok_ofLoad_iff.trans (busWord_zero 0 r ▸ Iff.rfl)
  · exact decode_eq_ok_ofPeek_iff.trans (busWord_zero 2 r ▸ Iff.rfl)
  · exact decode_eq_ok_ofStore_iff.trans (busWord_zero 1 r ▸ dataOf_eq_setWidth w ▸ Iff.rfl)
  · exact exists_decode_eq_ok_ofEvent_iff.trans (eventWord_zero c ▸ Iff.rfl)

/-! ## Reserved words (R105) -/

theorem exists_decode_eq_error_iff {w : Word} : (∃ r, decode w = .error r) ↔ 0xCA00 ≤ w.toNat := by
  have hw := toNat_eq_eventFields w
  have hdata := (dataOf w).isLt
  have hcode := (codeOf w).isLt
  simp only [decode_eq_error_iff]
  constructor
  · rintro ⟨r, hfmt, hc, -⟩
    have h3 : (fmtOf w).toNat = 3 := congrArg BitVec.toNat hfmt
    omega
  · intro h
    have h3 : (fmtOf w).toNat = 3 := by have := (fmtOf w).isLt; omega
    exact ⟨_, BitVec.eq_of_toNat_eq h3, by omega, rfl⟩

namespace Machine

theorem step_of_reserved {s : State} {w : Word} {rest : List Word} {r : Reject} (hs : s.script = w :: rest)
    (hw : decode w = .error r) : step s = .refused (.reservedWord w) := by
  simp only [step, stepFetched, hs, fetch, hw]

end Machine

/-- Settles O4: a rejected word is an event word with a code of 10 or more, and a step refuses what is rejected. -/
theorem reservedWordsRefused : Obligations.ReservedWordsRefused := by
  refine ⟨fun w => exists_decode_eq_error_iff, fun s w rest hs hw => ?_⟩
  obtain ⟨r, hr⟩ := exists_decode_eq_error_iff.mpr hw
  exact Machine.step_of_reserved hs hr

/-- Settles O5: sixteen closed evaluations of the decoder. -/
theorem writtenWordsDecode : Obligations.WrittenWordsDecode := by
  unfold Obligations.WrittenWordsDecode
  decide

end Sys2Proof
end


section
/-! SUPPORT. The ports (40_ports.md R120 to R136): the byte of a port bit by bit, the stores and the pin events, and that
no operation changes what a port presents without updating the port. -/

namespace Sys2Proof.Machine

/-! ## Port bytes, bit by bit (R132, R135, R136) -/

theorem getLsbD_drivenOrPin (data pins dir : Byte) {i : Nat} (hi : i < 8) :
    ((data &&& dir) ||| (pins &&& ~~~dir)).getLsbD i = if dir.getLsbD i then data.getLsbD i else pins.getLsbD i := by
  simp only [BitVec.getLsbD_or, BitVec.getLsbD_and, BitVec.getLsbD_not, hi, decide_true, Bool.true_and]
  cases dir.getLsbD i <;> simp

theorem getLsbD_drivenOrHigh (data dir : Byte) {i : Nat} (hi : i < 8) :
    (data ||| ~~~dir).getLsbD i = if dir.getLsbD i then data.getLsbD i else true := by
  simp only [BitVec.getLsbD_or, BitVec.getLsbD_not, hi, decide_true, Bool.true_and]
  cases dir.getLsbD i <;> simp

/-- Settles O27: each bit is the output's or the input's by its direction, and on port B the timers' outputs come over
the pins PBON gives them. -/
theorem portBytesBitByBit : Obligations.PortBytesBitByBit := by
  intro s i hi
  exact ⟨getLsbD_drivenOrPin _ _ _ hi, getLsbD_drivenOrHigh _ _ hi,
    by rw [State.readB, overlayTimers_getLsbD _ _ _ hi, getLsbD_drivenOrPin _ _ _ hi]; rfl,
    by rw [State.portBOut, overlayTimers_getLsbD _ _ _ hi, getLsbD_drivenOrHigh _ _ hi]; rfl⟩

/-! ## Loads, stores and pin events -/

/-- Settles O26: each of the seven loads answers its byte and nothing else. -/
theorem storageLoadsChangeNothing : Obligations.StorageLoadsChangeNothing :=
  fun _ => ⟨rfl, rfl, rfl, rfl, rfl, rfl, rfl⟩

/-- Settles O28: the store writes the shadow byte, and the port's update presents it. -/
theorem portAStores : Obligations.PortAStores := fun v s =>
  ⟨congrArg _ (updatePortA_eq (s.silent.setReg .pra v)), congrArg _ (updatePortA_eq (s.silent.setReg .ddra v))⟩

@[simp] theorem updatePortB_portBOut (s : State) : (updatePortB s).portBOut = s.portBOut := by
  rw [updatePortB_eq]; rfl

/-- Port B's update in terms of the byte presented after it. -/
theorem updatePortB_eq_after (s : State) :
    updatePortB s = { s with
      cia.oldPortB := (updatePortB s).portBOut
      trace := s.trace ++
        if (updatePortB s).portBOut = s.cia.oldPortB then [] else [.portB (updatePortB s).portBOut] } := by
  rw [updatePortB_portBOut]; exact updatePortB_eq s

/-- Settles O29: the store writes the shadow byte, and the port's update presents it. -/
theorem portBStores : Obligations.PortBStores := fun v s =>
  ⟨⟨_, rfl, updatePortB_eq_after (s.silent.setReg .prb v)⟩, ⟨_, rfl, updatePortB_eq_after (s.silent.setReg .ddrb v)⟩⟩

/-- Settles O30: each of the three events writes its own level. -/
theorem pinEventsRecordLevels : Obligations.PinEventsRecordLevels := fun _ _ _ => ⟨rfl, rfl, rfl⟩

end Sys2Proof.Machine
end

section
/-! SUPPORT. What an operation can do to the ports, said once: it leaves what both present and announced last, or it
leaves that of one and ends by updating the other (40_ports.md R132, R135). -/

namespace Sys2Proof.Machine

/-! ## The two ports -/

/-- The byte port A announced last and the byte it presents. -/
def State.sideA (s : State) : Byte × Byte := (s.cia.oldPortA, s.portAOut)

/-- The byte port B announced last and the byte it presents. -/
def State.sideB (s : State) : Byte × Byte := (s.cia.oldPortB, s.portBOut)

theorem portsPresented_iff (s : State) :
    s.portsPresented = true ↔ s.sideA.1 = s.sideA.2 ∧ s.sideB.1 = s.sideB.2 := by
  simp only [State.portsPresented, Bool.and_eq_true, beq_iff_eq, State.sideA, State.sideB]

theorem updatePortA_sideA (s : State) : (updatePortA s).sideA = (s.portAOut, s.portAOut) := by
  rw [updatePortA_eq]; rfl

theorem updatePortA_sideB (s : State) : (updatePortA s).sideB = s.sideB := by rw [updatePortA_eq]; rfl

theorem updatePortB_sideB (s : State) : (updatePortB s).sideB = (s.portBOut, s.portBOut) := by
  rw [updatePortB_eq]; rfl

theorem updatePortB_sideA (s : State) : (updatePortB s).sideA = s.sideA := by rw [updatePortB_eq]; rfl

/-- From `s` to `t` the ports are left as they are, or one is and the other is updated last. -/
inductive PortsFollow (s : State) : State → Prop
  | same {t : State} (ha : t.sideA = s.sideA) (hb : t.sideB = s.sideB) : PortsFollow s t
  | updateA {u : State} (hb : u.sideB = s.sideB) : PortsFollow s (updatePortA u)
  | updateB {u : State} (ha : u.sideA = s.sideA) : PortsFollow s (updatePortB u)

/-- What follows from a state with the same ports. -/
theorem PortsFollow.after {s u t : State} (h : PortsFollow u t) (ha : u.sideA = s.sideA) (hb : u.sideB = s.sideB) :
    PortsFollow s t := by
  cases h with
  | same ha' hb' => exact .same (ha'.trans ha) (hb'.trans hb)
  | updateA hb' => exact .updateA (hb'.trans hb)
  | updateB ha' => exact .updateB (ha'.trans ha)

theorem PortsFollow.of_silent {s t : State} (h : PortsFollow s.silent t) : PortsFollow s t := h.after rfl rfl

/-- An operation that answers one of two states, as a store to `SDR` and the events do. -/
theorem portsFollow_of_ite {c : Prop} [Decidable c] {s u v t : State}
    (h : (if c then .next u else .next v : Answer) = .next t) (hu : PortsFollow s u) (hv : PortsFollow s v) :
    PortsFollow s t := by
  split at h <;> cases h
  · exact hu
  · exact hv

theorem PortsFollow.keeps_portsPresented {s t : State} (h : PortsFollow s t) (hs : s.portsPresented = true) :
    t.portsPresented = true := by
  rw [portsPresented_iff] at hs ⊢
  obtain ⟨hsa, hsb⟩ := hs
  cases h with
  | same ha hb => rw [ha, hb]; exact ⟨hsa, hsb⟩
  | updateA hb => rw [updatePortA_sideA, updatePortA_sideB, hb]; exact ⟨rfl, hsb⟩
  | updateB ha => rw [updatePortB_sideB, updatePortB_sideA, ha]; exact ⟨hsa, rfl⟩

/-! ## Procedures that leave both ports -/

theorem raiseSource_portsFollow (src : Source) (s : State) : PortsFollow s (raiseSource src s) := by
  rw [raiseSource_eq]; exact .same rfl rfl

theorem latchStored_portsFollow {s u : State} (t : TimerId) (x : Half) (ha : u.sideA = s.sideA)
    (hb : u.sideB = s.sideB) : PortsFollow s (latchWritten t (u.setTimer t { u.timer t with latch := x })) := by
  rw [latchWritten_eq]
  cases t <;> exact .same ha hb

theorem todTick_portsFollow (s : State) : PortsFollow s (todTick s) := by
  obtain ⟨f, q, es, e⟩ := todTick_frame s
  rw [e]; exact .same rfl rfl

/-! ## The timers and the serial port leave port A -/

theorem serialFrame_sideA {s t : State} (h : serialFrame s t) : t.sideA = s.sideA := by
  obtain ⟨d, b, c, f, q, es, rfl⟩ := h
  rfl

theorem underflowA_sideA (s : State) : (underflowA s).sideA = s.sideA := by
  rw [underflowA_eq, serialFrame_sideA (sdrClock_frame _), underflowABase_eq]; rfl

theorem underflowB_sideA (s : State) : (underflowB s).sideA = s.sideA := by rw [underflowB_eq]; rfl

theorem countA_sideA (s : State) : (countA s).1.sideA = s.sideA := by
  rcases countA_cases s with ⟨-, e⟩ | ⟨-, e⟩ <;> rw [e]
  · exact underflowA_sideA _
  · rfl

theorem countB_sideA (s : State) : (countB s).sideA = s.sideA := by
  rcases countB_cases s with ⟨-, e⟩ | ⟨-, -, e⟩ | ⟨-, -, e⟩ <;> rw [e]
  · rfl
  · exact underflowB_sideA _
  · rfl

theorem phi2TimerA_sideA (s : State) : (phi2TimerA s).1.sideA = s.sideA := by
  rcases phi2TimerA_cases s with ⟨-, e⟩ | ⟨-, -, -, e⟩ | ⟨-, -, e⟩ <;> rw [e]
  · exact countA_sideA s
  · rfl

theorem phi2TimerB_sideA (uA : Bool) (s : State) : (phi2TimerB uA s).sideA = s.sideA := by
  rcases phi2TimerB_cases uA s with ⟨-, e⟩ | ⟨-, -, -, e⟩ | ⟨-, -, e⟩ <;> rw [e]
  · exact countB_sideA s
  · rfl

theorem cntTimerA_sideA (s : State) : (cntTimerA s).1.sideA = s.sideA := by
  rcases cntTimerA_cases s with ⟨-, e⟩ | ⟨-, e⟩ <;> rw [e]
  exact countA_sideA s

theorem cntTimerB_sideA (uA : Bool) (s : State) : (cntTimerB uA s).sideA = s.sideA := by
  rcases cntTimerB_cases uA s with ⟨-, e⟩ | ⟨-, e⟩ <;> rw [e]
  exact countB_sideA s

theorem sdrShiftIn_sideA (s : State) : (sdrShiftIn s).sideA = s.sideA := by
  rw [sdrShiftIn_eq]
  split
  · rw [raiseSource_eq]; rfl
  · rfl

/-- A clock cycle ends by updating port B, and leaves port A. -/
theorem phi2Cycle_portsFollow (s : State) : PortsFollow s (phi2Cycle s) := by
  have hA : (phi2TimerA (phi2Begin s)).1.sideA = s.sideA := phi2TimerA_sideA (phi2Begin s)
  exact .updateB ((phi2TimerB_sideA _ _).trans hA)

/-- A rising edge of CNT ends by updating port B, and leaves port A. -/
theorem cntRising_portsFollow (s : State) : PortsFollow s (cntRising s) := by
  have hB := (cntTimerB_sideA (cntTimerA s).2 _).trans (cntTimerA_sideA s)
  refine .updateB ?_
  split
  · exact (sdrShiftIn_sideA _).trans hB
  · exact hB

/-! ## Every operation -/

theorem exec_load_portsFollow {r : Reg} {s t : State} (h : exec (.ofLoad r) s = .next t) : PortsFollow s t := by
  cases r with
  | icr => cases h; rw [releaseIrq_eq]; exact .same rfl rfl
  | _ => cases h; exact .same rfl rfl

theorem exec_peek_portsFollow {r : Reg} {s t : State} (h : exec (.ofPeek r) s = .next t) : PortsFollow s t := by
  rw [exec_ofPeek] at h
  cases h
  exact .same rfl rfl

theorem exec_store_portsFollow {r : Reg} {v : Byte} {s t : State} (h : exec (.ofStore r v) s = .next t) :
    PortsFollow s t := by
  cases r with
  | pra | ddra => cases h; exact .updateA rfl
  | prb | ddrb => cases h; exact .updateB rfl
  | talo | tahi | tblo | tbhi => cases h; exact latchStored_portsFollow _ _ rfl rfl
  | tod10 | todsec | todmin | todhr =>
    cases h
    rw [todStore_eq]; exact .same rfl rfl
  | sdr => exact portsFollow_of_ite h (.same rfl rfl) (.same rfl rfl)
  | icr => cases h; rw [evaluateIrq_eq]; exact .same rfl rfl
  | cra => cases h; exact .updateB (by rw [sdrModeChange_frame, controlStored_eq]; rfl)
  | crb => cases h; exact .updateB (by rw [restartMarked_eq, controlStored_eq]; rfl)

theorem exec_event_portsFollow {e : Event} {s t : State} (hr : e ≠ .reset) (h : exec (.ofEvent e) s = .next t) :
    PortsFollow s t := by
  cases e with
  | phi2 => exact portsFollow_of_ite h (phi2Cycle_portsFollow s.silent).of_silent (.same rfl rfl)
  | todtick => exact portsFollow_of_ite h (todTick_portsFollow s.silent).of_silent (.same rfl rfl)
  | cnt level =>
    exact portsFollow_of_ite h ((cntRising_portsFollow { s.silent with cia.cnt := level }).after rfl rfl)
      (.same rfl rfl)
  | flag => exact portsFollow_of_ite h (raiseSource_portsFollow .flg s.silent).of_silent (.same rfl rfl)
  | setsdr v =>
    exact portsFollow_of_ite h ((raiseSource_portsFollow .sdr _).after rfl rfl) (.same rfl rfl)
  | reset => exact absurd rfl hr
  | sp | pina | pinb | disable => cases h; exact .same rfl rfl

/-- What every operation but `RESET` does to the ports. -/
theorem exec_portsFollow {i : Instr} {s t : State} (hr : i ≠ .reset) (h : exec i s = .next t) : PortsFollow s t := by
  rw [← Instr.ofShape_shape i] at hr h
  generalize i.shape = x at hr h
  cases x with
  | load r => exact exec_load_portsFollow h
  | store r v => exact exec_store_portsFollow h
  | peek r => exact exec_peek_portsFollow h
  | event e => exact exec_event_portsFollow (fun he => hr (congrArg Instr.ofEvent he)) h

/-- `RESET` leaves the reset values, which present what the ports announced last. -/
theorem execReset_portsPresented {s t : State} (h : exec .reset s = .next t) : t.portsPresented = true := by
  obtain ⟨-, -, hports, -⟩ := resetMeetsInvariants s.cfg
  cases h
  exact hports

/-- Settles O15: an operation leaves a port as it is or ends by updating it, and `RESET` presents the reset values. -/
theorem stepKeepsPortsPresented : Obligations.StepKeepsPortsPresented := by
  intro s t hs h
  rcases step_cases h with rfl | ⟨i, rest, h⟩
  · exact hs
  · by_cases hr : i = .reset
    · subst hr; exact execReset_portsPresented h
    · exact (exec_portsFollow hr h).keeps_portsPresented hs

end Sys2Proof.Machine
end

section
/-! SUPPORT. One part of a clock cycle or of a rising edge of CNT, said once for each timer: what it does to the timer,
to the other timer, to the flags, and what it leaves (41_timers.md R143 to R146). -/

namespace Sys2Proof.Machine

/-! ## The frame of a part -/

/-- What the timers' parts of `PHI2` and `CNT` leave: the frame of the block, the level of CNT, what port B announced
last, and everything around the block but the events of the line and of the serial pins. -/
structure PartFrame (s t : State) : Prop where
  block : clockFrame s.cia t.cia
  cnt : t.cia.cnt = s.cia.cnt
  oldPortB : t.cia.oldPortB = s.cia.oldPortB
  cfg : t.cfg = s.cfg
  script : t.script = s.script
  ret : t.ret = s.ret
  events : portEvents t.trace = portEvents s.trace

theorem clockFrame_refl (c : Cia) : clockFrame c c := ⟨rfl, fun _ _ _ => rfl, fun _ _ _ => rfl⟩

theorem clockFrame_trans {c d e : Cia} (h : clockFrame c d) (k : clockFrame d e) : clockFrame c e := by
  obtain ⟨h, ha, hb⟩ := h
  obtain ⟨k, ka, kb⟩ := k
  refine ⟨?_, fun i hi h0 => (ka i hi h0).trans (ha i hi h0), fun i hi h0 => (kb i hi h0).trans (hb i hi h0)⟩
  refine k.trans ?_
  rw [h]

theorem PartFrame.refl (s : State) : PartFrame s s := ⟨clockFrame_refl s.cia, rfl, rfl, rfl, rfl, rfl, rfl⟩

theorem PartFrame.trans {s t u : State} (h : PartFrame s t) (k : PartFrame t u) : PartFrame s u :=
  ⟨clockFrame_trans h.block k.block, k.cnt.trans h.cnt, k.oldPortB.trans h.oldPortB, k.cfg.trans h.cfg,
    k.script.trans h.script, k.ret.trans h.ret, k.events.trans h.events⟩

/-- A change of the timers' fields alone. -/
theorem PartFrame.of_timers (s : State) (a : Timer) (b : TimerB) (r : Bool) :
    PartFrame s { s with cia.ta := a, cia.tb := b, cia.tbRestart := r } :=
  ⟨⟨rfl, fun _ _ _ => rfl, fun _ _ _ => rfl⟩, rfl, rfl, rfl, rfl, rfl, rfl⟩

theorem sourcesFired_of_timers (s : State) (a : Timer) (b : TimerB) (r : Bool) :
    sourcesFired s { s with cia.ta := a, cia.tb := b, cia.tbRestart := r } 0#5 false :=
  sourcesFired_none rfl rfl rfl

theorem PartFrame.of_serialFrame {s t : State} (h : serialFrame s t) (he : portEvents t.trace = portEvents s.trace) :
    PartFrame s t := by
  obtain ⟨d, b, c, f, q, es, rfl⟩ := h
  exact ⟨⟨rfl, fun _ _ _ => rfl, fun _ _ _ => rfl⟩, rfl, rfl, rfl, rfl, rfl, he⟩

theorem raiseSource_partFrame (src : Source) (s : State) : PartFrame s (raiseSource src s) :=
  .of_serialFrame (serialFrame_raiseSource s src) (raiseSource_pinEvents s src).2

theorem sdrClock_portEvents (s : State) : portEvents (sdrClock s).trace = portEvents s.trace := by
  rcases sdrClock_cases s with ⟨-, -, e⟩ | ⟨-, ⟨-, e⟩ | ⟨-, -, e⟩ | ⟨-, -, e⟩⟩ <;> rw [e]
  · exact (shiftOut_events s).2
  · exact (shiftOut_events (loadShifter s)).2

theorem sdrClock_partFrame (s : State) : PartFrame s (sdrClock s) :=
  .of_serialFrame (sdrClock_frame s) (sdrClock_portEvents s)

/-- Clearing START where the timer is one-shot leaves the other bits. -/
theorem oneShotStop_getLsbD (b : Bool) (v : Byte) (i : Nat) (hi : i < 8) (h0 : i ≠ 0) :
    (if b then putBit v 0 false else v).getLsbD i = v.getLsbD i := by
  cases b
  · rfl
  · exact putBit_zero_getLsbD v hi h0

/-- Clearing START where the timer is one-shot. -/
theorem oneShotStop_start (b : Bool) (v : Byte) :
    (if b then putBit v 0 false else v).getLsbD 0 = (v.getLsbD 0 && !b) := by
  cases b
  · exact (Bool.and_true _).symm
  · exact (putBit_getLsbD v 0 0 false (by decide) (by decide)).trans (Bool.and_false _).symm

theorem oneShotStopA_partFrame (s : State) : PartFrame s (oneShotStopA s) := by
  rw [oneShotStopA_eq]
  exact ⟨⟨rfl, oneShotStop_getLsbD _ _, fun _ _ _ => rfl⟩, rfl, rfl, rfl, rfl, rfl, rfl⟩

theorem oneShotStopB_partFrame (s : State) : PartFrame s (oneShotStopB s) := by
  rw [oneShotStopB_eq]
  exact ⟨⟨rfl, fun _ _ _ => rfl, oneShotStop_getLsbD _ _⟩, rfl, rfl, rfl, rfl, rfl, rfl⟩

theorem tbBugCheck_partFrame (s : State) : PartFrame s (tbBugCheck s) := by
  rw [tbBugCheck_eq]
  exact ⟨⟨rfl, fun _ _ _ => rfl, fun _ _ _ => rfl⟩, rfl, rfl, rfl, rfl, rfl, rfl⟩

theorem underflowA_partFrame (s : State) : PartFrame s (underflowA s) :=
  .trans (.of_timers s s.cia.ta.reload s.cia.tb s.cia.tbRestart) <| .trans (oneShotStopA_partFrame _) <|
    .trans (raiseSource_partFrame .ta _) <| .trans (tbBugCheck_partFrame _) (sdrClock_partFrame _)

theorem underflowB_partFrame (s : State) : PartFrame s (underflowB s) :=
  .trans (.of_timers s s.cia.ta { s.cia.tb with toTimer := s.cia.tb.toTimer.reload } s.cia.tbRestart) <|
    .trans (oneShotStopB_partFrame _) (raiseSource_partFrame .tb _)

/-! ## The sources of a part -/

/-- Sources that fire together, bit by bit. -/
theorem sourceBits_or (a b c d e a' b' c' d' e' : Bool) :
    sourceBits a b c d e ||| sourceBits a' b' c' d' e' =
      sourceBits (a || a') (b || b') (c || c') (d || d') (e || e') := by
  simp only [sourceBits, ← BitVec.ofBool_or_ofBool]
  exact (BitVec.or_append (w := 4)).trans <| congrArg (· ++ _) <| (BitVec.or_append (w := 3)).trans <|
    congrArg (· ++ _) <| (BitVec.or_append (w := 2)).trans <| congrArg (· ++ _) (BitVec.or_append (w := 1))

theorem sourceBits_none : sourceBits false false false false false = 0#5 := rfl

theorem place_ta : Source.ta.place = sourceBits true false false false false := rfl

theorem place_tb : Source.tb.place = sourceBits false true false false false := rfl

theorem ite_place_sdr (b : Bool) : (if b then Source.sdr.place else 0#5) = sourceBits false false false b false := by
  cases b <;> rfl

/-! ## The eighth bit in -/

/-- An input edge now is the eighth of its byte (43_sdr.md R223). -/
def State.atEighthBitIn (s : State) : Bool := s.serialIn && s.cia.sdr.bits == 7

/-- A shift event of a byte that is force-finished keeps it so or completes it (43_sdr.md R222). -/
theorem Sdr.shifted_of_forceFinish {d : Sdr} (h : d.forceFinish = true) (queued : Byte) :
    (d.shifted queued).forceFinish = true ∨ (d.shifted queued).bits = 0 := by
  unfold Sdr.shifted
  split
  · exact .inr (by simp [Sdr.completed, h])
  · exact .inl h

theorem serialOut_of_serialFrame {s t : State} (h : serialFrame s t) : t.serialOut = s.serialOut := by
  obtain ⟨d, b, c, f, q, es, rfl⟩ := h
  rfl

/-- A shift event out is never at the eighth bit in: the port is in output mode, or force-finishes a byte. -/
theorem shiftOut_atEighthBitIn {s : State} (h : s.serialOut = true ∨ s.cia.sdr.forceFinish = true) :
    (shiftOut s).atEighthBitIn = false := by
  have hmode := serialOut_of_serialFrame (shiftOut_frame s)
  rw [State.atEighthBitIn, State.serialIn, hmode]
  rcases h with h | h
  · simp [h]
  · rw [shiftOut_sdr]
    rcases Sdr.shifted_of_forceFinish h s.cia.regs.sdr with k | k <;> simp [k]

/-- `SdrClock()` neither brings the port to the eighth bit in nor takes it from there: it does nothing in input mode
(43_sdr.md R222, R223). -/
theorem sdrClock_atEighthBitIn (s : State) : (sdrClock s).atEighthBitIn = s.atEighthBitIn := by
  rcases sdrClock_cases s with ⟨-, -, e⟩ | ⟨h, hcase⟩
  · rw [e]
  · have hs : s.atEighthBitIn = false := by
      rcases h with h | h <;> simp [State.atEighthBitIn, State.serialIn, h]
    rcases hcase with ⟨-, e⟩ | ⟨-, -, e⟩ | ⟨-, -, e⟩ <;> rw [e]
    · exact (shiftOut_atEighthBitIn h).trans hs.symm
    · exact (shiftOut_atEighthBitIn (s := loadShifter s) h).trans hs.symm

/-! ## Timer A's part -/

/-- What Timer A's part of an operation makes of `s`, `counted` saying whether it holds a counted tick of Timer A
(R142 to R144, R146). -/
structure PartA (counted : Bool) (s t : State) : Prop where
  tick : ticked s t .a counted
  pulse : t.cia.ta.pulse = (s.cia.ta.pulse || counted && s.cia.ta.atEnd)
  tb : t.cia.tb = { s.cia.tb with skip := s.skipAfterA (counted && s.cia.ta.atEnd) }
  restart : t.cia.tbRestart = (s.cia.tbRestart && !(counted && s.cia.ta.atEnd))
  regs : t.cia.regs = { s.cia.regs with cra := t.cia.regs.cra }
  fired : sourcesFired s t
    (sourceBits (counted && s.cia.ta.atEnd) false false (s.completesOutput (counted && s.cia.ta.atEnd)) false)
    (counted && s.cia.ta.atEnd && s.cia.tbRestart)
  bitIn : t.atEighthBitIn = s.atEighthBitIn
  frame : PartFrame s t

/-- A part without a counted tick: at most the start-up delay changes. -/
theorem PartA.idle (s : State) (d : Nat) : PartA false s { s with cia.ta.delay := d } where
  tick := ⟨rfl, rfl, rfl, rfl⟩
  pulse := (Bool.or_false _).symm
  tb := rfl
  restart := (Bool.and_true _).symm
  regs := rfl
  fired := by
    simpa [State.completesOutput, sourceBits_none] using
      sourcesFired_of_timers s { s.cia.ta with delay := d } s.cia.tb s.cia.tbRestart
  bitIn := rfl
  frame := .of_timers s { s.cia.ta with delay := d } s.cia.tb s.cia.tbRestart

/-- A counted tick that does not underflow. -/
theorem PartA.down {s : State} (h : s.cia.ta.atEnd = false) :
    PartA true s { s with cia.ta.count := s.cia.ta.count - 1 } where
  tick := by simp [ticked, h, State.started, State.control, State.reg]
  pulse := by simp [h]
  tb := by simp [h, State.skipAfterA]
  restart := by simp [h]
  regs := rfl
  fired := by
    simpa [h, State.completesOutput, sourceBits_none] using
      sourcesFired_of_timers s { s.cia.ta with count := s.cia.ta.count - 1 } s.cia.tb s.cia.tbRestart
  bitIn := rfl
  frame := .of_timers s { s.cia.ta with count := s.cia.ta.count - 1 } s.cia.tb s.cia.tbRestart

/-- A counted tick that underflows Timer A. -/
theorem PartA.underflow {s : State} (h : s.cia.ta.atEnd = true) :
    PartA true s (underflowA { s with cia.ta.count := 0 }) := by
  obtain ⟨hta, htb, hrestart, hregs⟩ := underflowA_timers { s with cia.ta.count := 0 }
  have hu : (true && s.cia.ta.atEnd) = true := by rw [h]; rfl
  refine ⟨?_, ?_, ?_, ?_, ?_, ?_, ?_, ?_⟩
  · have hstart := oneShotStop_start (s.oneShot .a) s.cia.regs.cra
    simp only [ticked, State.timer, State.started, State.control, State.reg, TimerId.controlReg, Regs.get, hu, if_true,
      hta, hregs]
    exact ⟨rfl, rfl, rfl, rfl, hstart⟩
  · rw [hta, hu, Bool.or_true]; rfl
  · rw [htb, hu]; rfl
  · rw [hrestart, hu]; exact (Bool.and_false _).symm
  · rw [hregs]
  · have hfired := underflowA_fired { s with cia.ta.count := 0 }
    rw [ite_place_sdr, place_ta, sourceBits_or] at hfired
    rw [hu]
    exact hfired
  · have hport := underflowABase_port { s with cia.ta.count := 0 }
    rw [underflowA_eq, sdrClock_atEighthBitIn]
    obtain ⟨hsdr, hout, -⟩ := hport
    rw [State.atEighthBitIn, State.serialIn, hsdr, hout]
    rfl
  · exact .trans (.of_timers s { s.cia.ta with count := 0 } s.cia.tb s.cia.tbRestart) (underflowA_partFrame _)

/-- A counted tick of Timer A; it arms no start-up delay. -/
theorem countA_part (s : State) : ∃ t, countA s = (t, s.cia.ta.atEnd) ∧ PartA true s t ∧
    (s.cia.ta.delay = 0 → t.cia.ta.delay = 0) := by
  rcases countA_cases s with ⟨h, e⟩ | ⟨h, e⟩
  · obtain ⟨hta, -⟩ := underflowA_timers { s with cia.ta.count := 0 }
    exact ⟨_, e.trans (by rw [h]), .underflow h, fun hdelay => by rw [hta]; simp [hdelay]⟩
  · exact ⟨_, e.trans (by rw [h]), .down h, id⟩

/-- A counted tick finds the start-up delay run down (R142). -/
theorem delay_of_phi2CountsA {s : State} (h : s.phi2CountsA = true) : s.cia.ta.delay = 0 := by
  simp only [State.phi2CountsA, Bool.and_eq_true, beq_iff_eq] at h
  obtain ⟨⟨-, hdelay⟩, -⟩ := h
  exact hdelay

theorem delay_of_cntCountsA {s : State} (h : s.cntCountsA = true) : s.cia.ta.delay = 0 := by
  simp only [State.cntCountsA, Bool.and_eq_true, beq_iff_eq] at h
  obtain ⟨⟨-, hdelay⟩, -⟩ := h
  exact hdelay

/-- Timer A's part of a cycle: whether it underflowed, the part itself, and its start-up delay (R170). -/
theorem phi2TimerA_part (s : State) : ∃ t, phi2TimerA s = (t, s.phi2CountsA && s.cia.ta.atEnd) ∧
    PartA s.phi2CountsA s t ∧ t.cia.ta.delay = if s.started .a then s.cia.ta.delay - 1 else s.cia.ta.delay := by
  rcases phi2TimerA_cases s with ⟨h, e⟩ | ⟨h, hs, -, e⟩ | ⟨h, hs, e⟩ <;> rw [e, h]
  · obtain ⟨t, ht, hpart, hkeep⟩ := countA_part s
    have hdelay := delay_of_phi2CountsA h
    exact ⟨t, ht, hpart, by simp [hkeep hdelay, hdelay]⟩
  · exact ⟨_, rfl, .idle s _, by simp [hs]⟩
  · exact ⟨s, rfl, .idle s s.cia.ta.delay, by rcases hs with hs | hs <;> simp [hs]⟩

/-- Timer A's part of a rising edge of CNT (R171). -/
theorem cntTimerA_part (s : State) : ∃ t, cntTimerA s = (t, s.cntCountsA && s.cia.ta.atEnd) ∧
    PartA s.cntCountsA s t ∧ t.cia.ta.delay = s.cia.ta.delay := by
  rcases cntTimerA_cases s with ⟨h, e⟩ | ⟨h, e⟩ <;> rw [e, h]
  · obtain ⟨t, ht, hpart, hkeep⟩ := countA_part s
    have hdelay := delay_of_cntCountsA h
    exact ⟨t, ht, hpart, (hkeep hdelay).trans hdelay.symm⟩
  · exact ⟨s, rfl, .idle s s.cia.ta.delay, rfl⟩

/-! ## Timer B's part -/

/-- An accepted tick that is not lost to the Timer B bug (R143, R146). -/
def State.countedB (s : State) (accepted : Bool) : Bool := accepted && s.cia.tb.skip == 0

/-- What Timer B's part of an operation makes of `s`, `accepted` saying whether it holds an accepted tick of Timer B
(R142, R143, R145). -/
structure PartB (accepted : Bool) (s t : State) : Prop where
  tick : ticked s t .b (s.countedB accepted)
  pulse : t.cia.tb.pulse = (s.cia.tb.pulse || s.countedB accepted && s.cia.tb.toTimer.atEnd)
  skip : t.cia.tb.skip = if accepted then s.cia.tb.skip - 1 else s.cia.tb.skip
  ta : t.cia.ta = s.cia.ta
  restart : t.cia.tbRestart = s.cia.tbRestart
  sdr : t.cia.sdr = s.cia.sdr
  regs : t.cia.regs = { s.cia.regs with crb := t.cia.regs.crb }
  fired : sourcesFired s t (sourceBits false (s.countedB accepted && s.cia.tb.toTimer.atEnd) false false false) false
  frame : PartFrame s t

/-- A part without an accepted tick: at most the start-up delay changes. -/
theorem PartB.idle (s : State) (d : Nat) : PartB false s { s with cia.tb.delay := d } where
  tick := ⟨rfl, rfl, rfl, rfl⟩
  pulse := (Bool.or_false _).symm
  skip := rfl
  ta := rfl
  restart := rfl
  sdr := rfl
  regs := rfl
  fired := by
    simpa [State.countedB, sourceBits_none] using
      sourcesFired_of_timers s s.cia.ta { s.cia.tb with delay := d } s.cia.tbRestart
  frame := .of_timers s s.cia.ta { s.cia.tb with delay := d } s.cia.tbRestart

/-- An accepted tick that the bug takes. -/
theorem PartB.lost {s : State} (h : 0 < s.cia.tb.skip) :
    PartB true s { s with cia.tb.skip := s.cia.tb.skip - 1 } := by
  have hc : s.countedB true = false := by simp [State.countedB]; omega
  exact {
    tick := by rw [hc]; exact ⟨rfl, rfl, rfl, rfl⟩
    pulse := by rw [hc]; exact (Bool.or_false _).symm
    skip := rfl, ta := rfl, restart := rfl, sdr := rfl, regs := rfl
    fired := by
      simpa [hc, sourceBits_none] using
        sourcesFired_of_timers s s.cia.ta { s.cia.tb with skip := s.cia.tb.skip - 1 } s.cia.tbRestart
    frame := .of_timers s s.cia.ta { s.cia.tb with skip := s.cia.tb.skip - 1 } s.cia.tbRestart }

/-- A counted tick that does not underflow. -/
theorem PartB.down {s : State} (h0 : s.cia.tb.skip = 0) (h : s.cia.tb.toTimer.atEnd = false) :
    PartB true s { s with cia.tb.count := s.cia.tb.count - 1 } := by
  have hc : s.countedB true = true := by simp [State.countedB, h0]
  exact {
    tick := by simp [ticked, hc, h, State.started, State.control, State.reg]
    pulse := by simp [h]
    skip := by simp [h0]
    ta := rfl, restart := rfl, sdr := rfl, regs := rfl
    fired := by
      simpa [h, sourceBits_none] using
        sourcesFired_of_timers s s.cia.ta { s.cia.tb with count := s.cia.tb.count - 1 } s.cia.tbRestart
    frame := .of_timers s s.cia.ta { s.cia.tb with count := s.cia.tb.count - 1 } s.cia.tbRestart }

/-- A counted tick that underflows Timer B. -/
theorem PartB.underflow {s : State} (h0 : s.cia.tb.skip = 0) (h : s.cia.tb.toTimer.atEnd = true) :
    PartB true s (underflowB { s with cia.tb.count := 0 }) := by
  have hu : (s.countedB true && s.cia.tb.toTimer.atEnd) = true := by simp [State.countedB, h0, h]
  have hstart := oneShotStop_start (s.oneShot .b) s.cia.regs.crb
  have hfired := underflowB_fired { s with cia.tb.count := 0 }
  have hframe := underflowB_partFrame { s with cia.tb.count := 0 }
  rw [place_tb] at hfired
  rw [underflowB_eq] at hfired hframe ⊢
  refine ⟨?_, ?_, ?_, rfl, rfl, rfl, rfl, ?_, ?_⟩
  · simp only [ticked, State.timer, hu, if_true]
    exact ⟨rfl, rfl, rfl, rfl, hstart⟩
  · rw [hu, Bool.or_true]; rfl
  · simp [h0]
  · rw [hu]; exact hfired
  · exact .trans (.of_timers s s.cia.ta { s.cia.tb with count := 0 } s.cia.tbRestart) hframe

theorem countB_part (s : State) : PartB true s (countB s) := by
  rcases countB_cases s with ⟨h, e⟩ | ⟨h0, h, e⟩ | ⟨h0, h, e⟩ <;> rw [e]
  · exact .lost h
  · exact .underflow h0 h
  · exact .down h0 h

/-- A tick of Timer B arms no start-up delay. -/
theorem countB_delay {s : State} (h : s.cia.tb.delay = 0) : (countB s).cia.tb.delay = 0 := by
  rcases countB_cases s with ⟨-, e⟩ | ⟨-, -, e⟩ | ⟨-, -, e⟩ <;> rw [e]
  · exact h
  · rw [underflowB_eq]; simp [h]
  · exact h

/-- An accepted tick finds the start-up delay run down (R142). -/
theorem delay_of_phi2AcceptsB {s : State} {uA : Bool} (h : s.phi2AcceptsB uA = true) : s.cia.tb.delay = 0 := by
  simp only [State.phi2AcceptsB, Bool.and_eq_true, beq_iff_eq] at h
  obtain ⟨⟨-, hdelay⟩, -⟩ := h
  exact hdelay

theorem delay_of_cntAcceptsB {s : State} {uA : Bool} (h : s.cntAcceptsB uA = true) : s.cia.tb.delay = 0 := by
  simp only [State.cntAcceptsB, Bool.and_eq_true, beq_iff_eq] at h
  obtain ⟨⟨-, hdelay⟩, -⟩ := h
  exact hdelay

/-- Timer B's part of a cycle, and its start-up delay (R170). -/
theorem phi2TimerB_part (uA : Bool) (s : State) :
    PartB (s.phi2AcceptsB uA) s (phi2TimerB uA s) ∧
    (phi2TimerB uA s).cia.tb.delay = if s.started .b then s.cia.tb.delay - 1 else s.cia.tb.delay := by
  rcases phi2TimerB_cases uA s with ⟨h, e⟩ | ⟨h, hs, -, e⟩ | ⟨h, hs, e⟩ <;> rw [e, h]
  · have hdelay := delay_of_phi2AcceptsB h
    exact ⟨countB_part s, by simp [countB_delay hdelay, hdelay]⟩
  · exact ⟨.idle s _, by simp [hs]⟩
  · exact ⟨.idle s s.cia.tb.delay, by rcases hs with hs | hs <;> simp [hs]⟩

/-- Timer B's part of a rising edge of CNT (R171). -/
theorem cntTimerB_part (uA : Bool) (s : State) :
    PartB (s.cntAcceptsB uA) s (cntTimerB uA s) ∧ (cntTimerB uA s).cia.tb.delay = s.cia.tb.delay := by
  rcases cntTimerB_cases uA s with ⟨h, e⟩ | ⟨h, e⟩ <;> rw [e, h]
  · have hdelay := delay_of_cntAcceptsB h
    exact ⟨countB_part s, (countB_delay hdelay).trans hdelay.symm⟩
  · exact ⟨.idle s s.cia.tb.delay, rfl⟩

end Sys2Proof.Machine
end

section
/-! SUPPORT. `PHI2` and `CNT` as a whole (41_timers.md R170, R171): Timer A's part, Timer B's after it, and what ends
the operation. -/

namespace Sys2Proof.Machine

/-! ## Timer A before Timer B -/

/-- `ticked` looks at the timer's fields and its control byte alone. -/
theorem ticked_congr {s s' t t' : State} {id : TimerId} {counted : Bool} (h : ticked s t id counted)
    (hs : s'.timer id = s.timer id) (hsc : s'.control id = s.control id) (ht : t'.timer id = t.timer id)
    (htc : t'.control id = t.control id) : ticked s' t' id counted := by
  simp only [ticked, State.started, State.oneShot, hs, hsc, ht, htc]
  exact h

theorem PartA.crb {c : Bool} {s t : State} (h : PartA c s t) : t.cia.regs.crb = s.cia.regs.crb := by rw [h.regs]

theorem PartA.startedB {c : Bool} {s t : State} (h : PartA c s t) : t.started .b = s.started .b :=
  congrArg (fun v : Byte => v.getLsbD 0) h.crb

theorem PartB.cra {c : Bool} {s t : State} (h : PartB c s t) : t.cia.regs.cra = s.cia.regs.cra := by rw [h.regs]

/-- Timer A's part changes nothing that decides which ticks Timer B accepts. -/
theorem PartA.acceptsB {c : Bool} {s t : State} (h : PartA c s t) (uA : Bool) :
    t.phi2AcceptsB uA = s.phi2AcceptsB uA ∧ t.cntAcceptsB uA = s.cntAcceptsB uA := by
  have hmode : t.inmodeB = s.inmodeB := congrArg (fun v : Byte => v.extractLsb' 5 2) h.crb
  simp only [State.phi2AcceptsB, State.cntAcceptsB, h.startedB, hmode, h.tb, h.frame.cnt, and_self]

/-- What both parts together make of `s` (R141 to R146, R170, R171). -/
structure BothParts (counted accepted : Bool) (s t : State) : Prop where
  tickA : ticked s t .a counted
  tickB : ticked s t .b (accepted && s.skipAfterA (counted && s.cia.ta.atEnd) == 0)
  pulseA : t.cia.ta.pulse = (s.cia.ta.pulse || counted && s.cia.ta.atEnd)
  pulseB : t.cia.tb.pulse = (s.cia.tb.pulse || s.underflowsB accepted (counted && s.cia.ta.atEnd))
  skip : t.cia.tb.skip = if accepted then s.skipAfterA (counted && s.cia.ta.atEnd) - 1
    else s.skipAfterA (counted && s.cia.ta.atEnd)
  restart : t.cia.tbRestart = (s.cia.tbRestart && !(counted && s.cia.ta.atEnd))
  fired : sourcesFired s t
    (sourceBits (counted && s.cia.ta.atEnd) (s.underflowsB accepted (counted && s.cia.ta.atEnd)) false
      (s.completesOutput (counted && s.cia.ta.atEnd)) false)
    (counted && s.cia.ta.atEnd && s.cia.tbRestart)
  shadow : t.cia.regs.sdr = s.cia.regs.sdr
  bitIn : t.atEighthBitIn = s.atEighthBitIn
  frame : PartFrame s t

theorem PartA.andThen {counted accepted : Bool} {s a t : State} (ha : PartA counted s a) (hb : PartB accepted a t) :
    BothParts counted accepted s t := by
  have htimer : a.cia.tb.toTimer = s.cia.tb.toTimer := by rw [ha.tb]
  have hskip : a.cia.tb.skip = s.skipAfterA (counted && s.cia.ta.atEnd) := by rw [ha.tb]
  have hcounted : a.countedB accepted = (accepted && s.skipAfterA (counted && s.cia.ta.atEnd) == 0) := by
    rw [State.countedB, hskip]
  have hu : (a.countedB accepted && a.cia.tb.toTimer.atEnd) =
      s.underflowsB accepted (counted && s.cia.ta.atEnd) := by rw [hcounted, htimer]; rfl
  exact {
    tickA := ticked_congr ha.tick rfl rfl hb.ta hb.cra
    tickB := by rw [← hcounted]; exact ticked_congr hb.tick htimer.symm ha.crb.symm rfl rfl
    pulseA := by rw [hb.ta]; exact ha.pulse
    pulseB := by rw [hb.pulse, hu, htimer]
    skip := by rw [hb.skip, hskip]
    restart := hb.restart.trans ha.restart
    fired := by
      have h := sourcesFired_trans ha.frame.cfg ha.fired hb.fired
      simpa only [hu, sourceBits_or, Bool.or_false, Bool.false_or] using h
    shadow := by rw [hb.regs, ha.regs]
    bitIn := by
      have hcra : t.serialOut = a.serialOut := congrArg (fun v : Byte => v.getLsbD 6) hb.cra
      rw [← ha.bitIn]
      simp only [State.atEighthBitIn, State.serialIn, hcra, hb.sdr]
    frame := ha.frame.trans hb.frame }

/-! ## The end of the operation -/

/-- Port B's update presents its byte, with an event exactly on a change (40_ports.md R132). -/
theorem updatePortB_presents (s : State) :
    (updatePortB s).cia.oldPortB = (updatePortB s).portBOut ∧
    portEvents (updatePortB s).trace = portEvents s.trace ++
      if (updatePortB s).portBOut = s.cia.oldPortB then [] else [.portB (updatePortB s).portBOut] := by
  rw [updatePortB_portBOut, updatePortB_eq, portEvents_append]
  refine ⟨rfl, congrArg _ ?_⟩
  split <;> rfl

theorem irqEvents_updatePortB (s : State) : irqEvents (updatePortB s).trace = irqEvents s.trace := by
  rw [updatePortB_eq, irqEvents_append]
  split <;> exact List.append_nil _

/-- Port B's update fires nothing. -/
theorem sourcesFired_updatePortB {s t : State} {src : BitVec 5} {tbb : Bool} (h : sourcesFired s t src tbb) :
    sourcesFired s (updatePortB t) src tbb := by
  have hevents := irqEvents_updatePortB t
  obtain ⟨hmask, hsources, hgap, hmark, hir, hline, htrace⟩ := h
  rw [updatePortB_eq] at hevents ⊢
  exact ⟨hmask, hsources, hgap, hmark, hir, hline, hevents.trans htrace⟩

theorem clockFrame_updatePortB {c : Cia} {s : State} (h : clockFrame c s.cia) : clockFrame c (updatePortB s).cia := by
  refine clockFrame_trans h ?_
  rw [updatePortB_eq]
  exact ⟨rfl, fun _ _ _ => rfl, fun _ _ _ => rfl⟩

/-! ## PHI2 -/

/-- `PHI2` on an enabled block: both parts from the state in which the pulses have ended, then the restart mark goes and
port B is updated (R170). -/
theorem exec_phi2 {s : State} (h : s.cia.enabled = true) : ∃ u,
    exec .phi2 s = .next (updatePortB { u with cia.tbRestart := false }) ∧
    BothParts s.phi2CountsA (s.phi2AcceptsB (s.phi2CountsA && s.cia.ta.atEnd)) (phi2Begin s.silent) u ∧
    u.cia.ta.delay = (if s.started .a then s.cia.ta.delay - 1 else s.cia.ta.delay) ∧
    u.cia.tb.delay = if s.started .b then s.cia.tb.delay - 1 else s.cia.tb.delay := by
  obtain ⟨a, hrun, ha, hdelayA⟩ := phi2TimerA_part (phi2Begin s.silent)
  obtain ⟨hb, hdelayB⟩ := phi2TimerB_part (s.phi2CountsA && s.cia.ta.atEnd) a
  rw [(ha.acceptsB _).1] at hb
  rw [ha.startedB, ha.tb] at hdelayB
  have hexec : exec .phi2 s = .next (phi2Cycle s.silent) := if_pos h
  rw [phi2Cycle, hrun] at hexec
  exact ⟨_, hexec, ha.andThen hb, (congrArg Timer.delay hb.ta).trans hdelayA, hdelayB⟩

/-- Settles O36: Timer A's part of the cycle; Timer B's part and the end of the cycle leave Timer A. -/
theorem clockCycleTimerA : Obligations.ClockCycleTimerA := by
  intro s h
  obtain ⟨u, hexec, hparts, hdelay, -⟩ := exec_phi2 h
  refine ⟨_, hexec, ?_⟩
  rw [updatePortB_eq]
  exact ⟨hparts.tickA, hparts.pulseA, hdelay⟩

/-- Settles O37: Timer B's part of the cycle, after Timer A's. -/
theorem clockCycleTimerB : Obligations.ClockCycleTimerB := by
  intro s h
  obtain ⟨u, hexec, hparts, -, hdelay⟩ := exec_phi2 h
  refine ⟨_, hexec, ?_⟩
  rw [updatePortB_eq]
  exact ⟨hparts.tickB, hparts.pulseB, rfl, hdelay, hparts.skip⟩

/-- Settles O38: the sources of both parts. -/
theorem clockCycleInterrupts : Obligations.ClockCycleInterrupts := by
  intro s h
  obtain ⟨u, hexec, hparts, -, -⟩ := exec_phi2 h
  exact ⟨_, hexec, sourcesFired_updatePortB hparts.fired⟩

/-- Settles O39: the frames of the two parts, and port B's update at the end of the cycle. -/
theorem clockCycleFrame : Obligations.ClockCycleFrame := by
  intro s h
  obtain ⟨u, hexec, hparts, -, -⟩ := exec_phi2 h
  obtain ⟨hblock, hcnt, hold, hcfg, hscript, hret, hevents⟩ := hparts.frame
  obtain ⟨hpresent, hport⟩ := updatePortB_presents { u with cia.tbRestart := false }
  have hbegin : clockFrame s.cia (phi2Begin s.silent).cia := ⟨rfl, fun _ _ _ => rfl, fun _ _ _ => rfl⟩
  have hend : clockFrame u.cia { u.cia with tbRestart := false } := ⟨rfl, fun _ _ _ => rfl, fun _ _ _ => rfl⟩
  have hframe := clockFrame_updatePortB (s := { u with cia.tbRestart := false })
    (clockFrame_trans hbegin (clockFrame_trans hblock hend))
  refine ⟨_, hexec, hframe, ?_, ?_, hpresent, ?_, ?_⟩
  · rw [updatePortB_eq]; exact hparts.shadow
  · rw [updatePortB_eq]; exact hcnt
  · rw [hport, hevents, hold]; rfl
  · rw [updatePortB_eq]; exact ⟨hcfg, hscript, hret⟩

/-! ## CNT -/

/-- Settles O40: without an enabled rising edge the operation ends with the level. -/
theorem countPinRecordsLevel : Obligations.CountPinRecordsLevel := by
  intro level s h
  have hedge : (s.cia.enabled && (!s.cia.cnt && level)) = false := by
    rcases h with h | h | h <;> simp [h]
  exact if_neg (Bool.eq_false_iff.mp hedge)

/-- The serial input at a rising edge of CNT (43_sdr.md R223). -/
def shiftInIfInput (s : State) : State := if s.serialIn then sdrShiftIn s else s

theorem cntRising_eq (s : State) :
    cntRising s = updatePortB (shiftInIfInput (cntTimerB (cntTimerA s).2 (cntTimerA s).1)) := rfl

/-- The three cases of the serial input: none, the eighth bit of a byte, or an earlier one. -/
theorem shiftInIfInput_cases (s : State) :
    (s.atEighthBitIn = false ∧ shiftInIfInput s = s) ∨
    (s.atEighthBitIn = true ∧ ∃ x v,
      shiftInIfInput s = raiseSource .sdr { s with cia.sdr.shifter := x, cia.sdr.bits := 0, cia.regs.sdr := v }) ∨
    (s.atEighthBitIn = false ∧ ∃ d, shiftInIfInput s = { s with cia.sdr := d }) := by
  unfold shiftInIfInput State.atEighthBitIn
  rw [sdrShiftIn_eq]
  cases s.serialIn
  · exact .inl ⟨rfl, rfl⟩
  · by_cases hbits : s.cia.sdr.bits = 7
    · exact .inr (.inl ⟨by simp [hbits], _, _, if_pos hbits⟩)
    · exact .inr (.inr ⟨by simp [hbits], _, if_neg hbits⟩)

/-- The serial input leaves the timers and the control registers. -/
theorem shiftInIfInput_timers (s : State) :
    (shiftInIfInput s).cia.ta = s.cia.ta ∧ (shiftInIfInput s).cia.tb = s.cia.tb ∧
    (shiftInIfInput s).cia.tbRestart = s.cia.tbRestart ∧ ∀ id, (shiftInIfInput s).control id = s.control id := by
  rcases shiftInIfInput_cases s with ⟨-, e⟩ | ⟨-, x, v, e⟩ | ⟨-, d, e⟩ <;> rw [e]
  · exact ⟨rfl, rfl, rfl, fun _ => rfl⟩
  · rw [raiseSource_eq]; exact ⟨rfl, rfl, rfl, fun id => by cases id <;> rfl⟩
  · exact ⟨rfl, rfl, rfl, fun _ => rfl⟩

theorem shiftInIfInput_frame (s : State) : PartFrame s (shiftInIfInput s) := by
  rcases shiftInIfInput_cases s with ⟨-, e⟩ | ⟨-, x, v, e⟩ | ⟨-, d, e⟩ <;> rw [e]
  · exact .refl s
  · refine .trans ?_ (raiseSource_partFrame .sdr _)
    exact ⟨⟨rfl, fun _ _ _ => rfl, fun _ _ _ => rfl⟩, rfl, rfl, rfl, rfl, rfl, rfl⟩
  · exact .of_serialFrame (serialFrame_sdr s d) rfl

/-- The serial input fires SDR at the eighth bit. -/
theorem shiftInIfInput_fired (s : State) :
    sourcesFired s (shiftInIfInput s) (sourceBits false false false s.atEighthBitIn false) false := by
  rcases shiftInIfInput_cases s with ⟨h, e⟩ | ⟨h, x, v, e⟩ | ⟨h, d, e⟩ <;> rw [e, h, ← ite_place_sdr]
  · exact sourcesFired_none rfl rfl rfl
  · exact raiseSource_sourcesFired { s with cia.sdr.shifter := x, cia.sdr.bits := 0, cia.regs.sdr := v } .sdr
  · exact sourcesFired_none (t := { s with cia.sdr := d }) rfl rfl rfl

/-- A rising edge of CNT on an enabled block: both parts from the state with the new level, then the serial input and
port B's update (R171). -/
theorem exec_cnt_rising {s : State} (h : s.cia.enabled = true) (hc : s.cia.cnt = false) : ∃ u,
    exec (.cnt true) s = .next (updatePortB (shiftInIfInput u)) ∧
    BothParts s.cntCountsA (s.cntAcceptsB (s.cntCountsA && s.cia.ta.atEnd)) { s.silent with cia.cnt := true } u ∧
    u.cia.ta.delay = s.cia.ta.delay ∧ u.cia.tb.delay = s.cia.tb.delay := by
  obtain ⟨a, hrun, ha, hdelayA⟩ := cntTimerA_part { s.silent with cia.cnt := true }
  obtain ⟨hb, hdelayB⟩ := cntTimerB_part (s.cntCountsA && s.cia.ta.atEnd) a
  rw [(ha.acceptsB _).2] at hb
  rw [ha.tb] at hdelayB
  have hedge : (s.cia.enabled && (!s.cia.cnt && true)) = true := by rw [h, hc]; rfl
  have hexec : exec (.cnt true) s = .next (cntRising { s.silent with cia.cnt := true }) := if_pos hedge
  rw [cntRising_eq, hrun] at hexec
  exact ⟨_, hexec, ha.andThen hb, (congrArg Timer.delay hb.ta).trans hdelayA, hdelayB⟩

/-- Settles O41: both timers' parts; the serial input and port B's update leave the timers. -/
theorem countPinEdgeTimers : Obligations.CountPinEdgeTimers := by
  intro s h hc
  obtain ⟨u, hexec, hparts, hdelayA, hdelayB⟩ := exec_cnt_rising h hc
  obtain ⟨hta, htb, hrestart, hcontrol⟩ := shiftInIfInput_timers u
  refine ⟨_, hexec, ?_⟩
  rw [updatePortB_eq]
  refine ⟨ticked_congr hparts.tickA rfl rfl hta (hcontrol .a),
    ticked_congr hparts.tickB rfl rfl (congrArg TimerB.toTimer htb) (hcontrol .b), ?_⟩
  simp only [hta, htb, hrestart]
  exact ⟨hparts.pulseA, hparts.pulseB, hdelayA, hdelayB, hparts.skip, hparts.restart⟩

/-- Settles O42: the sources of both parts and of the serial input, their frames, and port B's update. -/
theorem countPinEdgeInterrupts : Obligations.CountPinEdgeInterrupts := by
  intro s h hc
  obtain ⟨u, hexec, hparts, -, -⟩ := exec_cnt_rising h hc
  obtain ⟨hblock, hcnt, hold, hcfg, hscript, hret, hevents⟩ := hparts.frame.trans (shiftInIfInput_frame u)
  obtain ⟨hpresent, hport⟩ := updatePortB_presents (shiftInIfInput u)
  have hlevel : clockFrame s.cia { s.cia with cnt := true } := ⟨rfl, fun _ _ _ => rfl, fun _ _ _ => rfl⟩
  have hfired := sourcesFired_trans hparts.frame.cfg hparts.fired (shiftInIfInput_fired u)
  rw [hparts.bitIn, sourceBits_or] at hfired
  simp only [Bool.or_false] at hfired
  refine ⟨_, hexec, sourcesFired_updatePortB hfired, clockFrame_updatePortB (clockFrame_trans hlevel hblock), ?_,
    hpresent, ?_, ?_⟩
  · rw [updatePortB_eq]; exact hcnt
  · rw [hport, hevents, hold]; rfl
  · rw [updatePortB_eq]; exact ⟨hcfg, hscript, hret⟩

end Sys2Proof.Machine
end

section
/-! SUPPORT. The timers' registers (41_timers.md R147 to R167): loads, stores to the latch, stores to the control
registers; and that a stopped timer keeps its count (R140). -/

namespace Sys2Proof.Machine

/-! ## Loads and stores -/

/-- Settles O31: each load answers its half of the live count. -/
theorem timerLoadsReturnCount : Obligations.TimerLoadsReturnCount := fun _ => ⟨rfl, rfl, rfl, rfl⟩

/-- A store to a latch: the shadow byte, the latch, and the count of a stopped timer (R147). -/
theorem storeLatch_eq (t : TimerId) (r : Reg) (v : Byte) (x : Half) (s : State) :
    storeLatch t r v x s = .next ((s.silent.setReg r v).setTimer t { s.timer t with
      latch := x
      count := if (s.silent.setReg r v).started t then (s.timer t).count else x }) := by
  rw [storeLatch, latchWritten_eq]
  cases t <;> rfl

/-- Settles O32: the four stores, each with its half of the latch. -/
theorem timerStoresWriteLatch : Obligations.TimerStoresWriteLatch := fun v s =>
  ⟨storeLatch_eq .a .talo v (withLow s.cia.ta.latch v) s, storeLatch_eq .a .tahi v (withHigh s.cia.ta.latch v) s,
    storeLatch_eq .b .tblo v (withLow s.cia.tb.latch v) s, storeLatch_eq .b .tbhi v (withHigh s.cia.tb.latch v) s⟩

/-- The start-up delay after a control store, with both bits read as cleared (R142). -/
theorem delayAfter_eq (m : Model) (old v : Byte) (d : Nat) :
    delayAfter m old v d =
      if v.getLsbD 0 = false then 0 else if old.getLsbD 0 = false then startDelay m else d := by
  simp only [delayAfter, Bool.not_eq_true']

theorem updatePortB_sdr (s : State) : (updatePortB s).cia.sdr = s.cia.sdr := by rw [updatePortB_eq]

/-- `ST.CRA` up to port B's update: the control byte, the count, the delay, and some record of the serial port. -/
theorem storeCra_eq (v : Byte) (s : State) : ∃ d,
    sdrModeChange ((s.reg .cra).getLsbD 6) (v.getLsbD 6) (controlStored .a v s.silent) = { s with
      cia.regs.cra := v &&& 0xEF
      cia.ta.count := if v.getLsbD 4 then s.cia.ta.latch else s.cia.ta.count
      cia.ta.delay := if v.getLsbD 0 = false then 0
        else if s.cia.regs.cra.getLsbD 0 = false then startDelay s.cfg.model else s.cia.ta.delay
      cia.sdr := d, ret := none } := by
  rw [sdrModeChange_frame]
  generalize (sdrModeChange _ _ (controlStored .a v s.silent)).cia.sdr = d
  rw [controlStored_eq, delayAfter_eq]
  exact ⟨d, rfl⟩

/-- Settles O33: the common part of a control store, the serial port's mode change, and port B's update. -/
theorem controlAStore : Obligations.ControlAStore := by
  intro v s
  obtain ⟨d, hd⟩ := storeCra_eq v s
  refine ⟨_, congrArg (fun x => (.next (updatePortB x) : Answer)) hd, ?_⟩
  rw [updatePortB_sdr]
  exact updatePortB_eq_after _

/-- `ST.CRB` up to port B's update. -/
theorem storeCrb_eq (v : Byte) (s : State) :
    restartMarked (s.reg .crb) v (controlStored .b v s.silent) = { s with
      cia.regs.crb := v &&& 0xEF
      cia.tb.count := if v.getLsbD 4 then s.cia.tb.latch else s.cia.tb.count
      cia.tb.delay := if v.getLsbD 0 = false then 0
        else if s.cia.regs.crb.getLsbD 0 = false then startDelay s.cfg.model else s.cia.tb.delay
      cia.tb.skip := if v.getLsbD 0 = false then 0 else s.cia.tb.skip
      cia.tbRestart := if v.getLsbD 0 = false then false
        else if s.cia.regs.crb.getLsbD 0 = false ∨ v.getLsbD 4 = true then true else s.cia.tbRestart
      ret := none } := by
  have hskip : (if v.getLsbD 0 then s.cia.tb.skip else 0) = if v.getLsbD 0 = false then 0 else s.cia.tb.skip := by
    cases v.getLsbD 0 <;> rfl
  have hrestart : (if v.getLsbD 0 then isRestart (s.reg .crb) v || s.cia.tbRestart else false) =
      if v.getLsbD 0 = false then false
      else if (s.reg .crb).getLsbD 0 = false ∨ v.getLsbD 4 = true then true else s.cia.tbRestart := by
    unfold isRestart
    cases v.getLsbD 0
    · rfl
    · cases (s.reg .crb).getLsbD 0 <;> cases v.getLsbD 4 <;> simp
  rw [restartMarked_eq, controlStored_eq, delayAfter_eq]
  simp only [State.setTimer_b_skip, State.setTimer_tbRestart, State.setReg_tb, State.setReg_tbRestart, State.silent_cia,
    hskip, hrestart]
  rfl

/-- Settles O35: the common part of a control store, the Timer B bug's state, and port B's update. -/
theorem controlBStore : Obligations.ControlBStore := by
  intro v s
  refine ⟨_, congrArg (fun x => (.next (updatePortB x) : Answer)) (storeCrb_eq v s), ?_⟩
  exact updatePortB_eq_after _

/-! ## A stopped timer (R140) -/

/-- The registers whose stores may write a timer's count. -/
def TimerId.owns : TimerId → Reg → Bool
  | .a, .talo | .a, .tahi | .a, .cra => true
  | .b, .tblo | .b, .tbhi | .b, .crb => true
  | _, _ => false

/-- From `s` to `t` the timer keeps its count. -/
def KeepsCount (id : TimerId) (s t : State) : Prop := (t.timer id).count = (s.timer id).count

/-- An operation that answers one of two states. -/
theorem KeepsCount.of_ite {c : Prop} [Decidable c] {id : TimerId} {s u v t : State}
    (h : (if c then .next u else .next v : Answer) = .next t) (hu : KeepsCount id s u) (hv : KeepsCount id s v) :
    KeepsCount id s t := by
  split at h <;> cases h
  · exact hu
  · exact hv

theorem KeepsCount.of_timers {id : TimerId} {s t : State} (ha : t.cia.ta = s.cia.ta) (hb : t.cia.tb = s.cia.tb) :
    KeepsCount id s t := by
  cases id
  · exact congrArg Timer.count ha
  · exact congrArg (fun x : TimerB => x.count) hb

theorem KeepsCount.of_ticked {id : TimerId} {s t : State} (h : ticked s t id false) : KeepsCount id s t := by
  obtain ⟨-, -, -, hcount⟩ := h
  exact hcount

theorem exec_load_keepsCount {r : Reg} {id : TimerId} {s t : State} (h : exec (.ofLoad r) s = .next t) :
    KeepsCount id s t := by
  cases r with
  | icr => cases h; rw [releaseIrq_eq]; exact .of_timers rfl rfl
  | _ => cases h; exact .of_timers rfl rfl

theorem exec_peek_keepsCount {r : Reg} {id : TimerId} {s t : State} (h : exec (.ofPeek r) s = .next t) :
    KeepsCount id s t := by
  rw [exec_ofPeek] at h
  cases h
  exact .of_timers rfl rfl

/-- A store to a register that the timer does not own. -/
theorem exec_store_keepsCount {r : Reg} {v : Byte} {id : TimerId} {s t : State} (ho : id.owns r = false)
    (h : exec (.ofStore r v) s = .next t) : KeepsCount id s t := by
  cases r with
  | pra | ddra => cases h; rw [updatePortA_eq]; exact .of_timers rfl rfl
  | prb | ddrb => cases h; rw [updatePortB_eq]; exact .of_timers rfl rfl
  | talo | tahi =>
    cases id with
    | a => cases ho
    | b => cases (storeLatch_eq .a _ v _ s).symm.trans h; rfl
  | tblo | tbhi =>
    cases id with
    | a => cases (storeLatch_eq .b _ v _ s).symm.trans h; rfl
    | b => cases ho
  | tod10 | todsec | todmin | todhr => cases h; rw [todStore_eq]; exact .of_timers rfl rfl
  | sdr => exact .of_ite h (.of_timers rfl rfl) (.of_timers rfl rfl)
  | icr => cases h; rw [evaluateIrq_eq]; exact .of_timers rfl rfl
  | cra =>
    cases id with
    | a => cases ho
    | b => cases h; rw [updatePortB_eq, sdrModeChange_frame, controlStored_eq]; rfl
  | crb =>
    cases id with
    | a => cases h; rw [updatePortB_eq, restartMarked_eq, controlStored_eq]; rfl
    | b => cases ho


theorem execPhi2_keepsCount {id : TimerId} {s t : State} (hs : s.started id = false) (h : exec .phi2 s = .next t) :
    KeepsCount id s t := by
  cases he : s.cia.enabled
  · have hquiet : exec .phi2 s = .next s.silent := if_neg (Bool.eq_false_iff.mp he)
    cases hquiet.symm.trans h
    rfl
  · cases id with
    | a =>
      obtain ⟨u, hexec, htick, -⟩ := clockCycleTimerA s he
      cases hexec.symm.trans h
      rw [State.phi2CountsA, hs] at htick
      exact .of_ticked htick
    | b =>
      obtain ⟨u, hexec, htick, -⟩ := clockCycleTimerB s he
      cases hexec.symm.trans h
      simp only [State.phi2AcceptsB, hs, Bool.false_and] at htick
      exact .of_ticked htick

theorem execCnt_keepsCount {level : Bool} {id : TimerId} {s t : State} (hs : s.started id = false)
    (h : exec (.cnt level) s = .next t) : KeepsCount id s t := by
  by_cases hquiet : s.cia.enabled = false ∨ s.cia.cnt = true ∨ level = false
  · cases (countPinRecordsLevel level s hquiet).symm.trans h
    exact .of_timers rfl rfl
  · simp only [not_or, Bool.not_eq_false, Bool.not_eq_true] at hquiet
    obtain ⟨he, hc, rfl⟩ := hquiet
    obtain ⟨u, hexec, htickA, htickB, -⟩ := countPinEdgeTimers s he hc
    cases hexec.symm.trans h
    cases id with
    | a =>
      rw [State.cntCountsA, hs] at htickA
      exact .of_ticked htickA
    | b =>
      simp only [State.cntAcceptsB, hs, Bool.false_and] at htickB
      exact .of_ticked htickB

theorem exec_event_keepsCount {e : Event} {id : TimerId} {s t : State} (hr : e ≠ .reset) (hs : s.started id = false)
    (h : exec (.ofEvent e) s = .next t) : KeepsCount id s t := by
  have hraise (src : Source) (u : State) (ha : u.cia.ta = s.cia.ta) (hb : u.cia.tb = s.cia.tb) :
      KeepsCount id s (raiseSource src u) := by
    rw [raiseSource_eq]; exact .of_timers ha hb
  cases e with
  | phi2 => exact execPhi2_keepsCount hs h
  | todtick =>
    refine .of_ite h ?_ (.of_timers rfl rfl)
    obtain ⟨f, q, es, e⟩ := todTick_frame s.silent
    rw [e]; exact .of_timers rfl rfl
  | cnt level => exact execCnt_keepsCount hs h
  | flag => exact .of_ite h (hraise _ _ rfl rfl) (.of_timers rfl rfl)
  | setsdr v => exact .of_ite h (hraise _ _ rfl rfl) (.of_timers rfl rfl)
  | reset => exact absurd rfl hr
  | sp | pina | pinb | disable => cases h; exact .of_timers rfl rfl

/-- A stopped timer keeps its count through every operation but `RESET` and the stores to its own registers. -/
theorem exec_keepsCount {i : Instr} {id : TimerId} {s t : State} (hr : i ≠ .reset) (hs : s.started id = false)
    (ho : ∀ r v, i = .ofStore r v → id.owns r = false) (h : exec i s = .next t) : KeepsCount id s t := by
  rw [← Instr.ofShape_shape i] at hr h ho
  generalize i.shape = x at hr h ho
  cases x with
  | load r => exact exec_load_keepsCount h
  | store r v => exact exec_store_keepsCount (ho r v rfl) h
  | peek r => exact exec_peek_keepsCount h
  | event e => exact exec_event_keepsCount (fun he => hr (congrArg Instr.ofEvent he)) hs h

/-- Settles O22: for each timer, the stores left out are those to the registers it owns. -/
theorem stoppedTimerKeepsCount : Obligations.StoppedTimerKeepsCount := by
  intro i s t hr h
  constructor
  · intro hs hi
    refine exec_keepsCount (id := .a) hr hs (fun r v e => ?_) h
    obtain ⟨hlo, hhi, hcr⟩ := hi v
    cases r with
    | talo => exact absurd e hlo
    | tahi => exact absurd e hhi
    | cra => exact absurd e hcr
    | _ => rfl
  · intro hs hi
    refine exec_keepsCount (id := .b) hr hs (fun r v e => ?_) h
    obtain ⟨hlo, hhi, hcr⟩ := hi v
    cases r with
    | tblo => exact absurd e hlo
    | tbhi => exact absurd e hhi
    | crb => exact absurd e hcr
    | _ => rfl

end Sys2Proof.Machine
end

section
/-! SUPPORT. A timer that counts every cycle of the system clock underflows on its n-th (41_timers.md R143 to R145): one
induction for both timers. -/

namespace Sys2Proof.Machine

/-! ## Runs -/

theorem execList_append {is js : List Instr} {s t : State} (h : execList is s = .next t) :
    execList (is ++ js) s = execList js t := by
  induction is generalizing s with
  | nil => cases h; rfl
  | cons i is ih =>
    simp only [execList, List.cons_append] at h ⊢
    split at h
    · exact ih h
    · cases h
    · cases h

theorem execList_singleton {i : Instr} {s t : State} (h : exec i s = .next t) : execList [i] s = .next t := by
  simp only [execList, h]

/-! ## One timer's count from cycle to cycle -/

/-- A counted tick that does not underflow (R143). -/
theorem ticked_down {s t : State} {id : TimerId} (h : ticked s t id true) (hend : (s.timer id).atEnd = false) :
    (t.timer id).latch = (s.timer id).latch ∧ (t.timer id).tog = (s.timer id).tog ∧
    t.started id = s.started id ∧ (t.timer id).count = (s.timer id).count - 1 := by
  simpa only [ticked, hend, Bool.and_false, Bool.false_eq_true, if_false, if_true] using h

/-- A counted tick that underflows (R144, R145). -/
theorem ticked_underflow {s t : State} {id : TimerId} (h : ticked s t id true) (hend : (s.timer id).atEnd = true) :
    (t.timer id).count = (s.timer id).latch ∧ (t.timer id).tog = (!(s.timer id).tog) ∧
    t.started id = (s.started id && !s.oneShot id) := by
  simp only [ticked, hend, Bool.and_true, if_true] at h
  obtain ⟨-, hcount, htog, -, hstart⟩ := h
  exact ⟨hcount, htog, hstart⟩

/-- While `C` holds, every `PHI2` is a counted tick of the timer, `C` goes on holding until the underflow, and the
underflow sets the timer's flag. -/
structure CountsEveryCycle (id : TimerId) (flag : Nat) (C : State → Prop) : Prop where
  started {s : State} (h : C s) : s.started id = true
  cycle {s : State} (h : C s) : ∃ t, exec .phi2 s = .next t ∧ ticked s t id true ∧ t.oneShot id = s.oneShot id ∧
    ((s.timer id).atEnd = false → C t) ∧ ((s.timer id).atEnd = true → t.cia.icr.flags.getLsbD flag = true)

section
variable {id : TimerId} {flag : Nat} {C : State → Prop}

/-- After fewer cycles than the count the timer has counted each of them and not underflowed. -/
theorem CountsEveryCycle.before (hC : CountsEveryCycle id flag C) {s : State} (hs : C s) {k : Nat}
    (hk : k < (s.timer id).count.toNat) : ∃ t, execList (List.replicate k .phi2) s = .next t ∧ C t ∧
      (t.timer id).count.toNat = (s.timer id).count.toNat - k ∧ (t.timer id).tog = (s.timer id).tog ∧
      (t.timer id).latch = (s.timer id).latch ∧ t.oneShot id = s.oneShot id := by
  induction k with
  | zero => exact ⟨s, rfl, hs, rfl, rfl, rfl, rfl⟩
  | succ k ih =>
    obtain ⟨t, hrun, ht, hcount, htog, hlatch, hmode⟩ := ih (by omega)
    obtain ⟨u, hexec, htick, hmode', hgo, -⟩ := hC.cycle ht
    have hend : (t.timer id).atEnd = false := by
      simp only [Timer.atEnd, decide_eq_false_iff_not]; omega
    obtain ⟨hlatch', htog', -, hcount'⟩ := ticked_down htick hend
    obtain ⟨hdown, hnat⟩ := countDown_of_lt (c := (t.timer id).count) (by omega)
    refine ⟨u, ?_, hgo hend, ?_, htog'.trans htog, hlatch'.trans hlatch, hmode'.trans hmode⟩
    · rw [List.replicate_succ', execList_append hrun]
      exact execList_singleton hexec
    · rw [hcount', ← hdown, hnat, hcount, Nat.sub_sub]

/-- On the cycle that exhausts the count the timer underflows. -/
theorem CountsEveryCycle.nth (hC : CountsEveryCycle id flag C) {s : State} (hs : C s)
    (hpos : 0 < (s.timer id).count.toNat) :
    ∃ t, execList (List.replicate (s.timer id).count.toNat .phi2) s = .next t ∧
      (t.timer id).count = (s.timer id).latch ∧ (t.timer id).tog = (!(s.timer id).tog) ∧
      t.cia.icr.flags.getLsbD flag = true ∧ t.started id = !s.oneShot id := by
  obtain ⟨n, hn⟩ : ∃ n, (s.timer id).count.toNat = n + 1 := ⟨_, (Nat.succ_pred_eq_of_pos hpos).symm⟩
  obtain ⟨t, hrun, ht, hcount, htog, hlatch, hmode⟩ := hC.before hs (k := n) (by omega)
  obtain ⟨u, hexec, htick, -, -, hflag⟩ := hC.cycle ht
  have hend : (t.timer id).atEnd = true := by
    simp only [Timer.atEnd, decide_eq_true_eq]; omega
  obtain ⟨hreload, htog', hstart⟩ := ticked_underflow htick hend
  refine ⟨u, ?_, hreload.trans hlatch, by rw [htog', htog], hflag hend, ?_⟩
  · rw [hn, List.replicate_succ', execList_append hrun]
    exact execList_singleton hexec
  · rw [hstart, hC.started ht, hmode, Bool.true_and]

end

/-! ## Both timers count every cycle -/

theorem clockFrame_enabled {c d : Cia} (h : clockFrame c d) : d.enabled = c.enabled := by
  obtain ⟨h, -, -⟩ := h
  rw [h]

/-- A source that fires has its flag set. -/
theorem flag_of_sourcesFired {s t : State} {src : BitVec 5} {tbb : Bool} (h : sourcesFired s t src tbb) {i : Nat}
    (hi : i < 5) (hsrc : src.getLsbD i = true) : t.cia.icr.flags.getLsbD i = true := by
  obtain ⟨-, hsources, -⟩ := h
  have hbit := congrArg (fun v : BitVec 5 => v.getLsbD i) hsources
  simp only [Icr.sources, BitVec.getLsbD_extractLsb', BitVec.getLsbD_or, hi, hsrc, decide_true, Bool.true_and,
    Nat.zero_add, Bool.or_true] at hbit
  exact hbit

theorem sourceBits_getLsbD_zero (ta tb tod sdr flg : Bool) : (sourceBits ta tb tod sdr flg).getLsbD 0 = ta := by
  simp only [sourceBits, BitVec.getLsbD_append, BitVec.getLsbD_ofBool]
  rfl

theorem sourceBits_getLsbD_one (ta tb tod sdr flg : Bool) : (sourceBits ta tb tod sdr flg).getLsbD 1 = tb := by
  simp only [sourceBits, BitVec.getLsbD_append, BitVec.getLsbD_ofBool]
  rfl

/-- Timer A counts every cycle once it runs in PHI2 mode past its start-up delay. -/
theorem countsEveryCycle_a :
    CountsEveryCycle .a 0 fun s => s.cia.enabled = true ∧ s.phi2CountsA = true where
  started := by
    rintro s ⟨-, h⟩
    simp only [State.phi2CountsA, Bool.and_eq_true] at h
    obtain ⟨⟨hstarted, -⟩, -⟩ := h
    exact hstarted
  cycle := by
    rintro s ⟨he, h⟩
    obtain ⟨t, hexec, htick, -, hdelay⟩ := clockCycleTimerA s he
    obtain ⟨t', hexec', hfired⟩ := clockCycleInterrupts s he
    cases hexec.symm.trans hexec'
    obtain ⟨t', hexec', hframe, -⟩ := clockCycleFrame s he
    cases hexec.symm.trans hexec'
    have henabled := clockFrame_enabled hframe
    obtain ⟨-, hcra, -⟩ := hframe
    rw [h] at htick
    refine ⟨t, hexec, htick, hcra 3 (by decide) (by decide), fun hend => ⟨henabled.trans he, ?_⟩, fun hend => ?_⟩
    · obtain ⟨-, -, hstarted, -⟩ := ticked_down htick hend
      have hmode : t.countsCntA = s.countsCntA := hcra 5 (by decide) (by decide)
      have hdelay0 := delay_of_phi2CountsA h
      have hsame : t.cia.ta.delay = s.cia.ta.delay := by rw [hdelay, hdelay0]; simp
      rw [State.phi2CountsA, hstarted, hmode, hsame]
      exact h
    · refine flag_of_sourcesFired hfired (by decide) ?_
      rw [State.timer_a] at hend
      rw [sourceBits_getLsbD_zero, h, hend]
      rfl

/-- In PHI2 mode Timer B accepts every cycle past its start-up delay (R141). -/
theorem phi2AcceptsB_of_inmodeB {s : State} (h : s.inmodeB = 0#2) (uA : Bool) :
    s.phi2AcceptsB uA = (s.started .b && s.cia.tb.delay == 0) := by
  simp [State.phi2AcceptsB, h]

/-- Timer B counts every cycle once it runs in PHI2 mode past its start-up delay, with no tick to lose. -/
theorem countsEveryCycle_b :
    CountsEveryCycle .b 1 fun s => s.cia.enabled = true ∧ s.inmodeB = 0#2 ∧ s.phi2AcceptsB false = true ∧
      s.cia.tb.skip = 0 ∧ s.cia.tbRestart = false where
  started := by
    rintro s ⟨-, -, h, -⟩
    simp only [State.phi2AcceptsB, Bool.and_eq_true] at h
    obtain ⟨⟨hstarted, -⟩, -⟩ := h
    exact hstarted
  cycle := by
    rintro s ⟨he, hm, h, hskip, hrestart⟩
    obtain ⟨t, hexec, htick, -, hrestart', hdelay, hskip'⟩ := clockCycleTimerB s he
    obtain ⟨t', hexec', hfired⟩ := clockCycleInterrupts s he
    cases hexec.symm.trans hexec'
    obtain ⟨t', hexec', hframe, -⟩ := clockCycleFrame s he
    cases hexec.symm.trans hexec'
    have henabled := clockFrame_enabled hframe
    obtain ⟨-, -, hcrb⟩ := hframe
    have haccepts (uA : Bool) : s.phi2AcceptsB uA = true := by
      rw [phi2AcceptsB_of_inmodeB hm] at h ⊢; exact h
    have hlost (uA : Bool) : s.skipAfterA uA = 0 := by simp [State.skipAfterA, hskip, hrestart]
    simp only [haccepts, hlost, State.underflowsB] at htick hskip' hfired
    refine ⟨t, hexec, htick, hcrb 3 (by decide) (by decide), fun hend => ?_, fun hend => ?_⟩
    · obtain ⟨-, -, hstarted, -⟩ := ticked_down htick hend
      have hmode : t.inmodeB = 0#2 := by
        rw [← hm]
        refine BitVec.eq_of_getLsbD_eq fun i hi => ?_
        simp only [State.inmodeB, BitVec.getLsbD_extractLsb']
        exact congrArg _ (hcrb (5 + i) (by omega) (by omega))
      have hsame : t.cia.tb.delay = s.cia.tb.delay := by
        rw [hdelay, delay_of_phi2AcceptsB h]; simp
      refine ⟨henabled.trans he, hmode, ?_, hskip', hrestart'⟩
      rw [phi2AcceptsB_of_inmodeB hmode, hstarted, hsame, ← phi2AcceptsB_of_inmodeB hm false]
      exact h
    · refine flag_of_sourcesFired hfired (by decide) ?_
      rw [State.timer_b] at hend
      rw [sourceBits_getLsbD_one, hend]
      rfl

/-- Settles O43: both timers count every cycle until their count is exhausted. -/
theorem timerUnderflowsOnNthTick : Obligations.TimerUnderflowsOnNthTick := by
  constructor
  · rintro s n he hcounts rfl hpos
    have hs : s.cia.enabled = true ∧ s.phi2CountsA = true := ⟨he, hcounts⟩
    refine ⟨fun k hk => ?_, countsEveryCycle_a.nth hs hpos⟩
    obtain ⟨t, hrun, ht, hcount, htog, -⟩ := countsEveryCycle_a.before hs hk
    exact ⟨t, hrun, hcount, htog, countsEveryCycle_a.started ht⟩
  · rintro s n he hmode haccepts hskip hrestart rfl hpos
    have hs : s.cia.enabled = true ∧ s.inmodeB = 0#2 ∧ s.phi2AcceptsB false = true ∧ s.cia.tb.skip = 0 ∧
        s.cia.tbRestart = false := ⟨he, hmode, haccepts, hskip, hrestart⟩
    refine ⟨fun k hk => ?_, countsEveryCycle_b.nth hs hpos⟩
    obtain ⟨t, hrun, ht, hcount, htog, -⟩ := countsEveryCycle_b.before hs hk
    exact ⟨t, hrun, hcount, htog, countsEveryCycle_b.started ht⟩

end Sys2Proof.Machine
end

section
/-! SUPPORT. The time-of-day clock (42_tod.md R191 to R212): the increment as a count of tenths of a second, the hold
along a run, the tick as a whole, and the stores and loads of its registers. -/

namespace Sys2Proof.Machine

/-! ## The increment as a number (R193, R194) -/

/-- A seconds or minutes byte under the carry `c` from below: its new value and its own carry. -/
def carrySixty (c : Bool) (v : Byte) : Byte × Bool := if c then bcdInc v 0x59 else (v, false)

/-- The hours byte under the carry `c` from the minutes. -/
def carryHour (c : Bool) (h : Byte) : Byte := if c then hourInc h else h

/-- The increment as a chain of carries, from the tenths up to the hours. -/
theorem TodTime.increment_eq (t : TodTime) :
    let ten := bcdInc t.ten 0x09
    let sec := carrySixty ten.2 t.sec
    let min := carrySixty sec.2 t.min
    t.increment = { hr := carryHour min.2 t.hr, min := min.1, sec := sec.1, ten := ten.1 } := rfl

theorem bcdNumber_bcdInc_ten {v : Byte} (h : legalField .ten v = true) :
    bcdNumber (bcdInc v 0x09).1 + 10 * (bcdInc v 0x09).2.toNat = bcdNumber v + 1 := by
  obtain ⟨-, hsum⟩ := bcdInc_legal_digit v h
  rw [← hsum]
  cases (bcdInc v 0x09).2 <;> rfl

theorem bcdNumber_carrySixty (c : Bool) {v : Byte} (h : legalField .sec v = true) :
    bcdNumber (carrySixty c v).1 + 60 * (carrySixty c v).2.toNat = bcdNumber v + c.toNat := by
  cases c with
  | false => rfl
  | true =>
    obtain ⟨-, hsum⟩ := bcdInc_legal_sixty v h
    simp only [carrySixty, if_true, Bool.toNat_true, ← hsum]
    cases (bcdInc v 0x59).2 <;> rfl

theorem hourNumber_carryHour (c : Bool) {h : Byte} (hl : legalField .hr h = true) :
    hourNumber (carryHour c h) = (hourNumber h + c.toNat) % 24 := by
  cases c with
  | false =>
    obtain ⟨-, -, hlt⟩ := legalField_bounds h
    exact (Nat.mod_eq_of_lt hlt).symm
  | true => exact (hourInc_legal h hl).2

/-- From a legal time the carries add up to one tenth, and only the hours wrap, at the end of the day. -/
theorem TodTime.tenths_increment {t : TodTime} (h : t.legal = true) :
    t.increment.tenths = (t.tenths + 1) % 864000 := by
  have hinc := (TodTime.legal_iff _).mp (TodTime.legal_increment h)
  rw [TodTime.legal_iff] at h
  have ten_sum := bcdNumber_bcdInc_ten (v := t.ten) (h .ten)
  have sec_sum := bcdNumber_carrySixty (bcdInc t.ten 0x09).2 (v := t.sec) (h .sec)
  have min_sum := bcdNumber_carrySixty (carrySixty (bcdInc t.ten 0x09).2 t.sec).2 (v := t.min) (h .min)
  have hr_sum := hourNumber_carryHour (carrySixty (carrySixty (bcdInc t.ten 0x09).2 t.sec).2 t.min).2 (h := t.hr) (h .hr)
  obtain ⟨ten_lt, -, -⟩ := legalField_bounds t.increment.ten
  obtain ⟨-, sec_lt, -⟩ := legalField_bounds t.increment.sec
  obtain ⟨-, min_lt, -⟩ := legalField_bounds t.increment.min
  obtain ⟨-, -, hr_lt⟩ := legalField_bounds t.hr
  replace ten_lt := ten_lt (hinc .ten)
  replace sec_lt := sec_lt (hinc .sec)
  replace min_lt := min_lt (hinc .min)
  simp only [TodTime.increment_eq, TodTime.tenths] at ten_lt sec_lt min_lt ⊢
  omega

/-- Settles O48: each field is legal again, and the carry of each field is a step of the next. -/
theorem incrementAddsOneTenth : Obligations.IncrementAddsOneTenth := fun _ h =>
  ⟨TodTime.legal_increment h, TodTime.tenths_increment h⟩

/-! ## The hold (R205, R211) -/

/-- The hold of `d` and its snapshot are those of `c`. -/
def SameHold (c d : Tod) : Prop := d.latched = c.latched ∧ d.snap = c.snap

theorem SameHold.refl (d : Tod) : SameHold d d := ⟨rfl, rfl⟩

theorem todStored_sameHold (s : State) (f : TodField) (v : Byte) : SameHold s.cia.tod (s.todStored f v) := by
  unfold State.todStored
  split
  · exact ⟨rfl, rfl⟩
  · rw [clockStorePlace_eq, clockStoreGate_eq]; exact ⟨rfl, rfl⟩

theorem ticked_sameHold (d : Tod) (div : Nat) : SameHold d (d.ticked div) := by
  unfold Tod.ticked
  split
  · exact ⟨rfl, rfl⟩
  · split <;> exact ⟨rfl, rfl⟩

/-- A hold that is on is not taken again (decision D18). -/
theorem takeHold_of_latched {d : Tod} (h : d.latched = true) : takeHold d = d := if_pos h

/-- During a hold only `LD.TOD10` and `RESET` touch the hold or its snapshot. -/
theorem exec_sameHold {i : Instr} {s t : State} (hl : s.cia.tod.latched = true) (h10 : i ≠ .ldTod10)
    (hr : i ≠ .reset) (h : exec i s = .next t) : SameHold s.cia.tod t.cia.tod := by
  rw [exec_tod hr h]
  cases i with
  | stTod10 v | stTodsec v | stTodmin v | stTodhr v => exact todStored_sameHold s _ v
  | ldTod10 => exact absurd rfl h10
  | ldTodhr => rw [State.todAfter, takeHold_of_latched hl]; exact .refl _
  | todtick =>
    simp only [State.todAfter]
    split
    · exact ticked_sameHold _ _
    · exact .refl _
  | _ => exact .refl _

/-- Settles O46: by induction on the list, one operation at a time. -/
theorem holdSurvivesOtherOperations : Obligations.HoldSurvivesOtherOperations := by
  intro is
  induction is with
  | nil =>
    intro s t hl _ h
    cases h
    exact ⟨hl, rfl⟩
  | cons i is ih =>
    intro s t hl hmem h
    simp only [execList] at h
    split at h
    · next u hu =>
      obtain ⟨h10, hr⟩ := hmem i List.mem_cons_self
      obtain ⟨hlatched, hsnap⟩ := exec_sameHold hl h10 hr hu
      obtain ⟨tlatched, tsnap⟩ := ih u t (hlatched.trans hl) (fun j hj => hmem j (List.mem_cons_of_mem i hj)) h
      exact ⟨tlatched, tsnap.trans hsnap⟩
    · cases h
    · cases h

/-! ## The tick (R210, R212) -/

/-- From `s` to `t` only the flags and the line change, and the trace grows by one assertion exactly where IR is set
(44_icr.md R242). -/
def AssertsOnly (s t : State) : Prop :=
  t = { s with
    cia.icr.flags := t.cia.icr.flags, cia.irqOut := t.cia.irqOut
    trace := s.trace ++ if t.cia.icr.ir ∧ s.cia.icr.ir = false then
      [.irqLine s.cfg.irqLine s.cfg.ctxId true] else [] }

theorem AssertsOnly.refl (s : State) : AssertsOnly s s := by
  have hno : ¬ (s.cia.icr.ir = true ∧ s.cia.icr.ir = false) := by simp
  simp only [AssertsOnly, if_neg hno, List.append_nil]

/-- `RaiseSource` asserts the line exactly where it sets IR. -/
theorem raises_iff_ir_set (s : State) (src : Source) :
    s.cia.icr.raises src = true ↔ (raiseSource src s).cia.icr.ir = true ∧ s.cia.icr.ir = false := by
  have hir : (raiseSource src s).cia.icr.ir = (s.cia.icr.ir || s.cia.icr.raises src) := by
    obtain ⟨-, -, -, hbit⟩ := Icr.raised_fields s.cia.icr src (s.cia.icr.raises src)
    rw [raiseSource_eq]
    exact hbit
  rw [hir, raises_eq]
  cases s.cia.icr.ir <;> simp

theorem raiseSource_assertsOnly (src : Source) (s : State) : AssertsOnly s (raiseSource src s) := by
  simp only [AssertsOnly, ← raises_iff_ir_set]
  rw [raiseSource_eq]

/-- Beside the clock's own record a tick touches the flags and the line only. -/
theorem todTick_assertsOnly (s : State) :
    AssertsOnly { s with cia.tod := s.cia.tod.ticked s.todDiv } (todTick s) := by
  rcases todTick_cases s with ⟨h, e⟩ | ⟨h, k, e⟩ | ⟨h, k, e⟩
  · rw [e, Tod.ticked, if_pos h]; exact .refl _
  · rw [e, todTenth_eq, Tod.ticked, if_neg (by simp [h]), if_pos k]
    split
    · exact raiseSource_assertsOnly .tod _
    · exact .refl _
  · rw [e, Tod.ticked, if_neg (by simp [h]), if_neg k]; exact .refl _

/-- The clock's record after a tick, field by field. -/
theorem Tod.ticked_eq (d : Tod) (div : Nat) :
    d.ticked div = { d with
      clk := if d.tenthDue div then (d.clk.commit d.wbuf d.wmask).increment else d.clk.commit d.wbuf d.wmask
      wmask := 0
      ticks := if d.stopped then d.ticks else if d.tenthDue div then 0 else d.ticks + 1 } := by
  unfold Tod.ticked Tod.tenthDue
  cases hs : d.stopped with
  | true => simp [hs, commitBuffer]
  | false => by_cases h : div ≤ d.ticks + 1 <;> simp [h, hs, commitBuffer]

theorem ite_place_tod (b : Bool) :
    (if b then Source.tod.place else 0#5) = sourceBits false false b false false := by
  cases b <;> rfl

/-- A tick fires TOD or nothing. -/
theorem todTick_fired_tod (s : State) :
    sourcesFired s (todTick s) (sourceBits false false (s.cia.tod.tenthDue s.todDiv &&
      (commitBuffer s.cia.tod).clk.increment == s.cia.tod.alarm) false false) false := by
  simpa only [← ite_place_tod, Bool.and_eq_true, beq_iff_eq] using todTick_fired s

/-- Settles O47: the tick's record, its source and its frame, each by its own law. -/
theorem todTickAdvancesClock : Obligations.TodTickAdvancesClock := by
  intro s henabled
  have hexec : exec .todtick s = .next (todTick s.silent) := if_pos henabled
  refine ⟨_, hexec, ⟨?_, ?_⟩, ?_⟩
  · exact (todTick_tod s.silent).trans (Tod.ticked_eq _ _)
  · exact todTick_fired_tod s.silent
  · rw [todTick_tod]
    exact todTick_assertsOnly s.silent

/-! ## Stores and loads (R191 to R205) -/

theorem exec_ofStore_tod (f : TodField) (v : Byte) (s : State) :
    exec (.ofStore f.reg v) s = .next (todStore f v s) := by
  cases f <;> rfl

/-- The pending fields after a clock store: its own is pending during a hold and cancelled else, the others stay. -/
theorem clockStorePlace_wmask (f g : TodField) (v : Byte) (d : Tod) :
    (clockStorePlace f v d).wmask.getLsbD g.bit = if g = f then d.latched else d.wmask.getLsbD g.bit := by
  have hlt : g.bit < 4 := by cases g <;> decide
  rw [clockStorePlace_eq]
  cases d.latched with
  | false =>
    simp only [Bool.false_eq_true, if_false, BitVec.getLsbD_and, BitVec.getLsbD_not, maskBit_getLsbD, hlt,
      decide_true, Bool.true_and]
    by_cases h : g = f <;> simp [h]
  | true =>
    simp only [if_true, BitVec.getLsbD_or, maskBit_getLsbD]
    by_cases h : g = f <;> simp [h]

/-- Where the byte of a clock store goes (R191). -/
theorem clockStorePlace_byte (f : TodField) (v : Byte) (d : Tod) :
    if d.latched then (clockStorePlace f v d).wbuf = d.wbuf.set f v ∧ (clockStorePlace f v d).clk = d.clk
    else (clockStorePlace f v d).clk = d.clk.set f v ∧ (clockStorePlace f v d).wbuf = d.wbuf := by
  rw [clockStorePlace_eq]
  cases d.latched <;> exact ⟨rfl, rfl⟩

/-- Settles O44: the store's gate and place, as one record each. -/
theorem todStores : Obligations.TodStores := by
  intro f v s
  refine ⟨_, exec_ofStore_tod f v s, ?_, fun halarm => ?_, fun hclock => ?_⟩
  · rw [todStore_eq]
  · have hm : s.alarmMode = true := halarm
    rw [todStore_eq, hm, if_pos rfl]
  · have hm : s.alarmMode = false := hclock
    rw [todStore_eq, hm, if_neg Bool.false_ne_true]
    have hmask (g : TodField) := clockStorePlace_wmask f g v (clockStoreGate f s.cia.tod)
    have hbyte := clockStorePlace_byte f v (clockStoreGate f s.cia.tod)
    rw [clockStoreGate_eq] at hmask hbyte ⊢
    refine ⟨?_, ?_, ?_, ?_, ?_, hmask, hbyte⟩ <;> rw [clockStorePlace_eq]

/-- Settles O45: `TodRead` and the hold, written out. -/
theorem todLoads : Obligations.TodLoads := by
  intro s
  refine ⟨rfl, rfl, rfl, ?_⟩
  have hexec : exec .ldTodhr s = .next (({ s with cia.tod := takeHold s.cia.tod } : State).loadView .todhr
    (takeHold s.cia.tod).snap.hr) := rfl
  rw [hexec, takeHold_eq]
  rfl

end Sys2Proof.Machine
end

section
/-! SUPPORT. What the serial port sees of an operation (43_sdr.md R222, R223): the deferral that `PHI2` counts down, the
bit clock where Timer A underflows, and the shift-in of a rising edge of CNT. Everything else an operation of the
timers does is invisible to it. -/

namespace Sys2Proof.Machine

/-! ## The serial side of a state -/

/-- What the serial port's procedures read and drive: SPMODE, the port's record, the byte in `SDR`, the SP level coming
in, the two levels going out, and the events of the two pins. -/
structure SerialSide where
  mode : Bool
  port : Sdr
  shadow : Byte
  spIn : Bool
  spOut : Bool
  cntOut : Bool
  events : List OutEvent

def State.serialSide (s : State) : SerialSide :=
  ⟨s.serialOut, s.cia.sdr, s.cia.regs.sdr, s.cia.sp, s.cia.spOut, s.cia.cntOut, serialEvents s.trace⟩

/-- What a known serial side says of the state. -/
theorem State.of_serialSide_eq {t : State} {x : SerialSide} (h : t.serialSide = x) :
    t.cia.sdr = x.port ∧ t.cia.regs.sdr = x.shadow ∧ t.cia.spOut = x.spOut ∧ t.cia.cntOut = x.cntOut ∧
    serialEvents t.trace = x.events := by
  subst h
  exact ⟨rfl, rfl, rfl, rfl, rfl⟩

/-! ## Procedures the port does not see -/

@[simp] theorem raiseSource_serialSide (src : Source) (s : State) : (raiseSource src s).serialSide = s.serialSide := by
  obtain ⟨hevents, -⟩ := raiseSource_pinEvents s src
  rw [State.serialSide, hevents, raiseSource_eq]
  rfl

@[simp] theorem updatePortB_serialSide (s : State) : (updatePortB s).serialSide = s.serialSide := by
  have hevents : serialEvents (updatePortB s).trace = serialEvents s.trace := by
    rw [updatePortB_eq, serialEvents_append]
    split <;> exact List.append_nil _
  rw [State.serialSide, hevents, updatePortB_eq]
  rfl

/-- The one-shot stop clears START and leaves SPMODE. -/
theorem oneShotStopA_serialSide (s : State) : (oneShotStopA s).serialSide = s.serialSide := by
  have hmode := oneShotStop_getLsbD (s.oneShot .a) s.cia.regs.cra 6 (by decide) (by decide)
  rw [oneShotStopA_eq]
  simp only [State.serialSide, State.serialOut, State.reg, Regs.get, hmode]

theorem underflowABase_serialSide (s : State) : (underflowABase s).serialSide = s.serialSide := by
  rw [underflowABase, tbBugCheck_eq]
  exact (raiseSource_serialSide _ _).trans (oneShotStopA_serialSide _)

theorem underflowB_serialSide (s : State) : (underflowB s).serialSide = s.serialSide := by
  rw [underflowB, raiseSource_serialSide, oneShotStopB_eq]
  rfl

theorem countB_serialSide (s : State) : (countB s).serialSide = s.serialSide := by
  rcases countB_cases s with ⟨-, e⟩ | ⟨-, -, e⟩ | ⟨-, -, e⟩ <;> rw [e]
  · rfl
  · exact underflowB_serialSide _
  · rfl

theorem phi2TimerB_serialSide (uA : Bool) (s : State) : (phi2TimerB uA s).serialSide = s.serialSide := by
  rcases phi2TimerB_cases uA s with ⟨-, e⟩ | ⟨-, -, -, e⟩ | ⟨-, -, e⟩ <;> rw [e]
  · exact countB_serialSide s
  · rfl

theorem cntTimerB_serialSide (uA : Bool) (s : State) : (cntTimerB uA s).serialSide = s.serialSide := by
  rcases cntTimerB_cases uA s with ⟨-, e⟩ | ⟨-, e⟩ <;> rw [e]
  exact countB_serialSide s

/-! ## The port's own procedures -/

theorem shiftOut_serialSide (s : State) :
    (shiftOut s).serialSide = { s.serialSide with
      port := s.cia.sdr.shifted s.cia.regs.sdr, spOut := s.cia.sdr.shifter.getLsbD 7, cntOut := true
      events := serialEvents s.trace ++ s.cia.shiftEvents (s.cia.sdr.shifter.getLsbD 7) } := by
  obtain ⟨hsp, hcnt⟩ := shiftOut_pins s
  obtain ⟨hevents, -⟩ := shiftOut_events s
  obtain ⟨d, b, c, f, q, es, hframe⟩ := shiftOut_frame s
  have hmode := serialOut_of_serialFrame (shiftOut_frame s)
  rw [State.serialSide, hmode, shiftOut_sdr, hsp, hcnt, hevents, hframe]
  rfl

/-- `SdrClock()` by what the port reads: nothing in input mode, a shift of the byte in flight, the start of a byte that
is ready, or nothing (43_sdr.md R222). -/
theorem sdrClock_eq (s : State) :
    sdrClock s =
      if s.serialIn then s
      else if s.cia.sdr.inflight then shiftOut s
      else if s.byteReady then shiftOut (loadShifter s)
      else s := rfl

theorem sdrClock_of_inflight {s : State} (hin : s.serialIn = false) (hflight : s.cia.sdr.inflight = true) :
    sdrClock s = shiftOut s := by rw [sdrClock_eq, hin, hflight]; rfl

theorem sdrClock_of_ready {s : State} (hin : s.serialIn = false) (hflight : s.cia.sdr.inflight = false)
    (hready : s.byteReady = true) : sdrClock s = shiftOut (loadShifter s) := by
  rw [sdrClock_eq, hin, hflight, hready]; rfl

theorem sdrClock_of_serialIn {s : State} (hin : s.serialIn = true) : sdrClock s = s := by rw [sdrClock_eq, if_pos hin]

theorem sdrClock_of_no_byte {s : State} (hflight : s.cia.sdr.inflight = false) (hready : s.byteReady = false) :
    sdrClock s = s := by
  rw [sdrClock_eq, hflight, hready]
  exact ite_self s

/-- The port after one shift event in, `b` being the level of SP (43_sdr.md R223). -/
def Sdr.shiftedIn (d : Sdr) (b : Bool) : Sdr :=
  { d with
    shifter := d.shifter.extractLsb' 0 15 ++ BitVec.ofBool b
    bits := if d.bits = 7 then 0 else d.bits + 1 }

/-- The bit shifted in is the lowest, and the others have moved up one place. -/
theorem getLsbD_zero_shiftedIn (x : Half) (m : Nat) (b : Bool) :
    (x.extractLsb' 0 m ++ BitVec.ofBool b).getLsbD 0 = b := by
  simp only [BitVec.getLsbD_append, BitVec.getLsbD_ofBool, Nat.zero_lt_one, decide_true, Bool.true_and, if_true]

theorem getLsbD_succ_shiftedIn (x : Half) (b : Bool) {m j : Nat} (hj : j < m) :
    (x.extractLsb' 0 m ++ BitVec.ofBool b).getLsbD (j + 1) = x.getLsbD j := by
  simp only [BitVec.getLsbD_append, BitVec.getLsbD_extractLsb']
  simp [hj]

theorem shiftLeft_or_ofBool (x : Half) (b : Bool) :
    (x <<< 1) ||| (BitVec.ofBool b).setWidth 16 = x.extractLsb' 0 15 ++ BitVec.ofBool b := by
  apply BitVec.eq_of_getLsbD_eq
  intro j hj
  cases j with
  | zero => rw [getLsbD_zero_shiftedIn]; simp
  | succ j =>
    rw [getLsbD_succ_shiftedIn x b (by omega), BitVec.getLsbD_or, BitVec.getLsbD_shiftLeft]
    simp [hj]

theorem lowByte_shiftedIn (x : Half) (b : Bool) :
    lowByte (x.extractLsb' 0 15 ++ BitVec.ofBool b) = x.extractLsb' 0 7 ++ BitVec.ofBool b := by
  apply BitVec.eq_of_getLsbD_eq
  intro j hj
  simp only [lowByte, BitVec.getLsbD_extractLsb' (len := 8), hj, decide_true, Bool.true_and, Nat.zero_add]
  cases j with
  | zero => rw [getLsbD_zero_shiftedIn, getLsbD_zero_shiftedIn]
  | succ j => rw [getLsbD_succ_shiftedIn x b (by omega), getLsbD_succ_shiftedIn x b (by omega)]

theorem sdrShiftIn_serialSide (s : State) :
    (sdrShiftIn s).serialSide = { s.serialSide with
      port := s.cia.sdr.shiftedIn s.cia.sp
      shadow := if s.cia.sdr.bits = 7 then s.cia.sdr.shifter.extractLsb' 0 7 ++ BitVec.ofBool s.cia.sp
        else s.cia.regs.sdr } := by
  rw [sdrShiftIn_eq, shiftLeft_or_ofBool, Sdr.shiftedIn]
  by_cases h : s.cia.sdr.bits = 7
  · simp only [h, if_true, raiseSource_serialSide, lowByte_shiftedIn]
    rfl
  · simp only [h, if_false]
    rfl

/-! ## The port's procedures depend on the serial side alone -/

/-- Two states with one serial side have one serial side after the procedure. -/
theorem shiftOut_serialSide_congr {s t : State} (h : t.serialSide = s.serialSide) :
    (shiftOut t).serialSide = (shiftOut s).serialSide := by
  rw [shiftOut_serialSide, shiftOut_serialSide, h]
  simp only [State.serialSide, SerialSide.mk.injEq] at h ⊢
  obtain ⟨-, hport, hshadow, -, hsp, hcnt, hevents⟩ := h
  simp only [hport, hshadow, hevents, Cia.shiftEvents, hsp, hcnt, and_self]

theorem loadShifter_serialSide_congr {s t : State} (h : t.serialSide = s.serialSide) :
    (loadShifter t).serialSide = (loadShifter s).serialSide :=
  congrArg (fun x : SerialSide => { x with
    port := { x.port with shifter := x.shadow.setWidth 16, valid := false, inflight := true, bits := 0 } }) h

theorem serialIn_congr {s t : State} (h : t.serialSide = s.serialSide) : t.serialIn = s.serialIn :=
  congrArg (fun x : SerialSide => !x.mode && !x.port.forceFinish) h

theorem sdrClock_serialSide_congr {s t : State} (h : t.serialSide = s.serialSide) :
    (sdrClock t).serialSide = (sdrClock s).serialSide := by
  have hin := serialIn_congr h
  have hflight : t.cia.sdr.inflight = s.cia.sdr.inflight := congrArg (fun x : SerialSide => x.port.inflight) h
  have hready : t.byteReady = s.byteReady := congrArg (fun x : SerialSide => x.port.valid && x.port.delay == 0) h
  rw [sdrClock_eq, sdrClock_eq, hin, hflight, hready]
  cases s.serialIn with
  | true => exact h
  | false =>
    cases s.cia.sdr.inflight with
    | true => exact shiftOut_serialSide_congr h
    | false =>
      cases s.byteReady with
      | true => exact shiftOut_serialSide_congr (loadShifter_serialSide_congr h)
      | false => exact h

theorem shiftInIfInput_serialSide_congr {s t : State} (h : t.serialSide = s.serialSide) :
    (shiftInIfInput t).serialSide = (shiftInIfInput s).serialSide := by
  rw [shiftInIfInput, shiftInIfInput, serialIn_congr h]
  cases s.serialIn with
  | false => exact h
  | true =>
    rw [if_pos rfl, if_pos rfl, sdrShiftIn_serialSide, sdrShiftIn_serialSide, h]
    simp only [State.serialSide, SerialSide.mk.injEq] at h ⊢
    obtain ⟨-, hport, hshadow, hspIn, -⟩ := h
    simp only [hport, hshadow, hspIn, and_self]

/-! ## What an operation of the timers is to the port -/

/-- `SdrClock()` where Timer A underflows. -/
def clockedIf (underflow : Bool) (s : State) : State := if underflow then sdrClock s else s

theorem clockedIf_serialSide_congr (b : Bool) {s t : State} (h : t.serialSide = s.serialSide) :
    (clockedIf b t).serialSide = (clockedIf b s).serialSide := by
  cases b with
  | false => exact h
  | true => exact sdrClock_serialSide_congr h

theorem clockedIf_of_idle {s : State} (b : Bool) (h : sdrClock s = s) : clockedIf b s = s := by
  cases b with
  | false => rfl
  | true => exact h

theorem countA_serialSide (s : State) : (countA s).1.serialSide = (clockedIf s.cia.ta.atEnd s).serialSide := by
  rcases countA_cases s with ⟨h, e⟩ | ⟨h, e⟩ <;> rw [e, h]
  · exact sdrClock_serialSide_congr (underflowABase_serialSide _)
  · rfl

theorem phi2TimerA_serialSide (s : State) :
    (phi2TimerA s).1.serialSide = (clockedIf (s.phi2CountsA && s.cia.ta.atEnd) s).serialSide := by
  rcases phi2TimerA_cases s with ⟨h, e⟩ | ⟨h, -, -, e⟩ | ⟨h, -, e⟩ <;> rw [e, h]
  · exact countA_serialSide s
  · rfl
  · rfl

theorem cntTimerA_serialSide (s : State) :
    (cntTimerA s).1.serialSide = (clockedIf (s.cntCountsA && s.cia.ta.atEnd) s).serialSide := by
  rcases cntTimerA_cases s with ⟨h, e⟩ | ⟨h, e⟩ <;> rw [e, h]
  · exact countA_serialSide s
  · rfl

/-- The state as Timer A's underflow in `i` finds it: `PHI2` has counted the deferral down (41_timers.md R170). -/
def State.deferred (s : State) (i : Instr) : State := { s with cia.sdr.delay := s.sdrDelayIn i }

/-- `PHI2` on an enabled block, to the port (41_timers.md R170). -/
theorem exec_phi2_serialSide {s : State} (h : s.cia.enabled = true) : ∃ t, exec .phi2 s = .next t ∧
    t.serialSide = (clockedIf (s.underflowsA .phi2) (s.deferred .phi2)).serialSide := by
  have hexec : exec .phi2 s = .next (phi2Cycle s.silent) := if_pos h
  refine ⟨_, hexec, ?_⟩
  rw [phi2Cycle, updatePortB_serialSide]
  calc
    _ = (phi2TimerA (phi2Begin s.silent)).1.serialSide := phi2TimerB_serialSide _ _
    _ = (clockedIf (s.underflowsA .phi2) (phi2Begin s.silent)).serialSide := phi2TimerA_serialSide _
    _ = (clockedIf (s.underflowsA .phi2) (s.deferred .phi2)).serialSide := clockedIf_serialSide_congr _ rfl

/-- A rising edge of CNT on an enabled block, to the port: the shift-in comes after the bit clock
(41_timers.md R171). -/
theorem exec_cnt_serialSide {s : State} (h : s.cia.enabled = true) (hc : s.cia.cnt = false) : ∃ t,
    exec (.cnt true) s = .next t ∧
    t.serialSide = (shiftInIfInput (clockedIf (s.underflowsA (.cnt true)) s)).serialSide := by
  have hedge : (s.cia.enabled && (!s.cia.cnt && true)) = true := by rw [h, hc]; rfl
  have hexec : exec (.cnt true) s = .next (cntRising { s.silent with cia.cnt := true }) := if_pos hedge
  have hunder : s.underflowsA (.cnt true) = (s.cntCountsA && s.cia.ta.atEnd) := by simp [State.underflowsA, hc]
  refine ⟨_, hexec, ?_⟩
  rw [cntRising_eq, updatePortB_serialSide, hunder]
  refine shiftInIfInput_serialSide_congr ?_
  calc
    _ = (cntTimerA { s.silent with cia.cnt := true }).1.serialSide := cntTimerB_serialSide _ _
    _ = (clockedIf (s.cntCountsA && s.cia.ta.atEnd) { s.silent with cia.cnt := true }).serialSide :=
      cntTimerA_serialSide _
    _ = (clockedIf (s.cntCountsA && s.cia.ta.atEnd) s).serialSide := clockedIf_serialSide_congr _ rfl

/-- The shift-in that ends `i`: a rising edge of CNT has one, `PHI2` has none. -/
def edgeIn (i : Instr) (s : State) : State := if i = .phi2 then s else shiftInIfInput s

/-- `PHI2` or a rising edge of CNT on an enabled block, to the port. -/
theorem exec_serialSide {s : State} {i : Instr} (h : s.cia.enabled = true)
    (hi : i = .phi2 ∨ i = .cnt true ∧ s.cia.cnt = false) : ∃ t,
    exec i s = .next t ∧ t.serialSide = (edgeIn i (clockedIf (s.underflowsA i) (s.deferred i))).serialSide := by
  rcases hi with rfl | ⟨rfl, hc⟩
  · exact exec_phi2_serialSide h
  · exact exec_cnt_serialSide h hc

/-- Timer A underflows in no other operation (41_timers.md R143). -/
theorem clock_of_underflowsA {s : State} {i : Instr} (h : s.underflowsA i = true) :
    i = .phi2 ∨ i = .cnt true ∧ s.cia.cnt = false := by
  cases i with
  | phi2 => exact .inl rfl
  | cnt level =>
    simp only [State.underflowsA, Bool.and_eq_true, Bool.not_eq_true'] at h
    obtain ⟨⟨⟨hlevel, hcnt⟩, -⟩, -⟩ := h
    exact .inr ⟨by rw [hlevel], hcnt⟩
  | _ => exact absurd h Bool.false_ne_true

end Sys2Proof.Machine
end

section
/-! SUPPORT. The serial port's operations and its part in `PHI2` and `CNT` (43_sdr.md R221 to R229). -/

namespace Sys2Proof.Machine

/-! ## Stores and the host's byte -/

/-- Settles O51: the law of one shift event. -/
theorem shiftEventDrivesPins : Obligations.ShiftEventDrivesPins := fun s b => by
  simpa only [List.append_assoc] using drivePins_eq s b

/-- Settles O49: the two modes. -/
theorem serialDataStore : Obligations.SerialDataStore := by
  intro v s
  change execStSdr v s = _
  have hmode : (s.silent.setReg .sdr v).serialOut = s.cia.regs.cra.getLsbD 6 := rfl
  simp only [execStSdr, hmode]
  cases s.cia.regs.cra.getLsbD 6 with
  | true => rw [Bool.or_true]; rfl
  | false => rw [Bool.or_false]; rfl

/-- Settles O50: a byte taken is the port's update and then `RaiseSource`. -/
theorem hostSerialByte : Obligations.HostSerialByte := by
  intro v s
  have htakes : (s.silent.cia.enabled && s.silent.serialIn) =
      (s.cia.enabled && !s.cia.regs.cra.getLsbD 6 && !s.cia.sdr.forceFinish) := (Bool.and_assoc _ _ _).symm
  change ∃ t, execSetsdr v s = .next t ∧ _
  simp only [execSetsdr, htakes]
  cases s.cia.enabled && !s.cia.regs.cra.getLsbD 6 && !s.cia.sdr.forceFinish with
  | false => exact ⟨_, rfl, fun _ => rfl, fun h => absurd h Bool.false_ne_true⟩
  | true =>
    exact ⟨_, rfl, fun h => absurd h.symm Bool.false_ne_true, fun _ =>
      ⟨raiseSource_sourcesFired _ .sdr, raiseSource_assertsOnly .sdr _⟩⟩

/-- A store that keeps SPMODE leaves the port (R224). -/
theorem sdrModeChange_self (b : Bool) (s : State) : sdrModeChange b b s = s := by cases b <;> rfl

theorem sdrModeChange_out_in (s : State) :
    (sdrModeChange true false s).cia.sdr = if s.cia.sdr.inflight then { s.cia.sdr with forceFinish := true }
      else { s.cia.sdr with valid := false, bits := 0, delay := 0 } :=
  apply_ite (fun t : State => t.cia.sdr) _ _ _

theorem sdrModeChange_in_out (s : State) :
    (sdrModeChange false true s).cia.sdr = if s.cia.sdr.forceFinish then { s.cia.sdr with forceFinish := false }
      else { s.cia.sdr with shifter := 0, bits := 0, valid := false, inflight := false, delay := 0 } :=
  apply_ite (fun t : State => t.cia.sdr) _ _ _

/-- Settles O34: the mode changes; the rest of `ST.CRA` leaves the port. -/
theorem serialModeSwitch : Obligations.SerialModeSwitch := by
  intro v s
  have hport : (controlStored .a v s.silent).cia.sdr = s.cia.sdr := by rw [controlStored_eq]; rfl
  have hcra : s.reg .cra = s.cia.regs.cra := rfl
  refine ⟨_, rfl, ?_⟩
  rw [updatePortB_sdr, hcra, ← hport]
  refine ⟨fun h => ?_, fun ho hn => ?_, fun ho hn => ?_⟩
  · rw [h, sdrModeChange_self]
  · rw [ho, hn, sdrModeChange_out_in]
  · rw [ho, hn, sdrModeChange_in_out]

/-! ## One bit out -/

theorem Sdr.completed_forceFinish (d : Sdr) (queued : Byte) : (d.completed queued).forceFinish = false := by
  unfold Sdr.completed
  split
  · rfl
  · next h => split <;> simpa using h

theorem Sdr.shifted_of_ne {d : Sdr} (h : d.bits ≠ 7) (queued : Byte) :
    d.shifted queued = { d with shifter := d.shifter <<< 1, bits := d.bits + 1 } := if_neg h

theorem Sdr.shifted_of_eq {d : Sdr} (h : d.bits = 7) (queued : Byte) :
    d.shifted queued = Sdr.completed { d with shifter := d.shifter <<< 1 } queued := if_pos h

/-- Before the eighth bit a shift event leaves the port's mode. -/
theorem shiftOut_serialIn_of_ne {s : State} (h : s.cia.sdr.bits ≠ 7) : (shiftOut s).serialIn = s.serialIn := by
  rw [State.serialIn, serialOut_of_serialFrame (shiftOut_frame s), shiftOut_sdr, Sdr.shifted_of_ne h]
  rfl

/-- After the eighth bit no byte is force-finished. -/
theorem shiftOut_serialIn_of_eq {s : State} (h : s.cia.sdr.bits = 7) : (shiftOut s).serialIn = !s.serialOut := by
  rw [State.serialIn, serialOut_of_serialFrame (shiftOut_frame s), shiftOut_sdr, Sdr.shifted_of_eq h,
    Sdr.completed_forceFinish]
  exact Bool.and_true _

/-- A shift-in that is not the eighth changes the port's record alone. -/
theorem edgeIn_serialSide {s : State} (i : Instr) (h : s.atEighthBitIn = false) :
    (edgeIn i s).serialSide = { s.serialSide with
      port := if i = .phi2 ∨ s.serialIn = false then s.cia.sdr else s.cia.sdr.shiftedIn s.cia.sp } := by
  unfold edgeIn shiftInIfInput
  by_cases hi : i = .phi2
  · simp only [hi, if_true, true_or]; rfl
  · cases hin : s.serialIn with
    | false => simp only [hi, if_false, Bool.false_eq_true, or_true, if_true]; rfl
    | true =>
      have hbits : s.cia.sdr.bits ≠ 7 := by simpa [State.atEighthBitIn, hin] using h
      simp only [hi, if_false, if_true, Bool.true_eq_false, or_self, sdrShiftIn_serialSide, if_neg hbits]
      rfl

/-- An underflow of Timer A that shifts a bit of `x` out: its pins, its events and its record, and then the shift-in of
the edge if the port has come back to input (43_sdr.md R222; 41_timers.md R144, R171). -/
theorem exec_shiftsOut {s x : State} {i : Instr} (h : s.cia.enabled = true) (hu : s.underflowsA i = true)
    (hx : sdrClock (s.deferred i) = shiftOut x) (hout : x.serialIn = false) : ∃ t,
    exec i s = .next t ∧ t.cia.spOut = x.cia.sdr.shifter.getLsbD 7 ∧ t.cia.cntOut = true ∧
    t.cia.regs.sdr = x.cia.regs.sdr ∧
    serialEvents t.trace = serialEvents x.trace ++ x.cia.shiftEvents (x.cia.sdr.shifter.getLsbD 7) ∧
    t.cia.sdr = if i = .phi2 ∨ (shiftOut x).serialIn = false then x.cia.sdr.shifted x.cia.regs.sdr
      else (x.cia.sdr.shifted x.cia.regs.sdr).shiftedIn x.cia.sp := by
  obtain ⟨t, hexec, ht⟩ := exec_serialSide h (clock_of_underflowsA hu)
  have hmode : x.serialOut = true ∨ x.cia.sdr.forceFinish = true := by
    simpa only [State.serialIn, Bool.and_eq_false_iff, Bool.not_eq_false'] using hout
  rw [hu, clockedIf, if_pos rfl, hx, edgeIn_serialSide i (shiftOut_atEighthBitIn hmode), shiftOut_serialSide,
    shiftOut_sdr] at ht
  obtain ⟨hport, hshadow, hsp, hcnt, hevents⟩ := State.of_serialSide_eq ht
  have hspIn : (shiftOut x).cia.sp = x.cia.sp := congrArg SerialSide.spIn (shiftOut_serialSide x)
  rw [hspIn] at hport
  exact ⟨t, hexec, hsp, hcnt, hshadow, hevents, hport⟩

/-- Settles O52: one shift event of the byte in flight; only a force-finished byte that completes brings the port back
to input, and only an edge of CNT then shifts in. -/
theorem underflowShiftsBitOut : Obligations.UnderflowShiftsBitOut := by
  intro s i h hu hin hflight
  obtain ⟨t, hexec, hsp, hcnt, hshadow, hevents, hport⟩ :=
    exec_shiftsOut h hu (sdrClock_of_inflight (s := s.deferred i) hin hflight) hin
  refine ⟨t, hexec, hsp, hcnt, hshadow, hevents, fun hbits => ?_, fun hbits => ?_⟩
  · have hne : (s.deferred i).cia.sdr.bits ≠ 7 := hbits
    rw [hport, if_pos (.inr ((shiftOut_serialIn_of_ne hne).trans hin)), Sdr.shifted_of_ne hne]
    rfl
  · have heq : (s.deferred i).cia.sdr.bits = 7 := hbits
    have hmode : (s.deferred i).serialOut = s.serialOut := rfl
    rw [hport, shiftOut_serialIn_of_eq heq, hmode, Sdr.shifted_of_eq heq, Sdr.completed]
    simp only [State.deferred, Bool.not_eq_false', Bool.and_eq_true, beq_iff_eq]
    cases hforce : s.cia.sdr.forceFinish with
    | true =>
      by_cases hc : i = .phi2 ∨ s.serialOut = true
      · simp only [hc, if_true]
      · simp only [hc, if_true, if_false]; rfl
    | false =>
      have hout : s.serialOut = true := by simpa [State.serialIn, hforce] using hin
      simp only [hout, or_true, if_true, Bool.false_eq_true, if_false]
      by_cases hready : s.cia.sdr.valid = true ∧ s.sdrDelayIn i = 0
      · simp only [hready, and_self, if_true]
      · simp only [hready, if_false]

/-- Settles O53: the bit clock loads the byte and shifts it at once; its first bit is not the eighth. -/
theorem underflowStartsQueuedByte : Obligations.UnderflowStartsQueuedByte := by
  intro s i h hu hin hflight hvalid hdelay
  have hready : (s.deferred i).byteReady = true := by
    simp only [State.byteReady, State.deferred, hvalid, hdelay]; rfl
  obtain ⟨t, hexec, hsp, hcnt, hshadow, hevents, hport⟩ :=
    exec_shiftsOut h hu (sdrClock_of_ready (s := s.deferred i) hin hflight hready) hin
  have hbits : (loadShifter (s.deferred i)).cia.sdr.bits ≠ 7 := show 0 ≠ 7 by decide
  have hbit : (loadShifter (s.deferred i)).cia.sdr.shifter.getLsbD 7 = s.cia.regs.sdr.getLsbD 7 :=
    BitVec.getLsbD_setWidth _ _ _
  rw [hbit] at hsp hevents
  rw [if_pos (.inr ((shiftOut_serialIn_of_ne hbits).trans hin)), Sdr.shifted_of_ne hbits] at hport
  refine ⟨t, hexec, hsp, hcnt, hshadow, hevents, hport.trans ?_⟩
  simp [loadShifter, State.deferred, hdelay, State.reg, Regs.get]

/-! ## No bit -/

/-- Settles O54: the bit clock leaves the port as it is, and no edge shifts in; a CNT that is no edge only records its
level. -/
theorem serialPortStandsStill : Obligations.SerialPortStandsStill := by
  intro s i h hi hstill
  have hclock : clockedIf (s.underflowsA i) (s.deferred i) = s.deferred i := by
    rcases hstill with hu | hin | ⟨hflight, hbyte⟩
    · rw [hu]; rfl
    · exact clockedIf_of_idle _ (sdrClock_of_serialIn hin)
    · have hready : (s.deferred i).byteReady = false := by
        rcases hbyte with hbyte | hbyte <;> simp [State.byteReady, State.deferred, hbyte]
      exact clockedIf_of_idle _ (sdrClock_of_no_byte hflight hready)
  have hedge : edgeIn i (s.deferred i) = s.deferred i := by
    rcases hi with rfl | ⟨rfl, hin⟩
    · rfl
    · exact if_neg (Bool.eq_false_iff.mp hin)
  by_cases hrise : i = .phi2 ∨ i = .cnt true ∧ s.cia.cnt = false
  · obtain ⟨t, hexec, ht⟩ := exec_serialSide h hrise
    rw [hclock, hedge] at ht
    obtain ⟨hport, hshadow, hsp, hcnt, hevents⟩ := State.of_serialSide_eq ht
    exact ⟨t, hexec, hport, hsp, hcnt, hshadow, hevents⟩
  · rcases hi with rfl | ⟨rfl, -⟩
    · exact absurd (.inl rfl) hrise
    · have hhigh : s.cia.cnt = true := by simpa using hrise
      exact ⟨_, countPinRecordsLevel true s (.inr (.inl hhigh)), rfl, rfl, rfl, rfl, rfl⟩

/-! ## A byte out, bit by bit -/

/-- Before its eighth bit a byte moves up one place with each shift event (R222). -/
theorem shiftOut_iterate {s : State} {k : Nat} (hk : k ≤ 7) :
    (shiftOut^[k] (loadShifter s)).cia.sdr.bits = k ∧
    (shiftOut^[k] (loadShifter s)).cia.sdr.shifter = s.cia.regs.sdr.setWidth 16 <<< k := by
  induction k with
  | zero => exact ⟨rfl, (BitVec.shiftLeft_zero _).symm⟩
  | succ k ih =>
    obtain ⟨hbits, hshifter⟩ := ih (by omega)
    rw [Function.iterate_succ_apply', shiftOut_sdr, Sdr.shifted_of_ne (by omega)]
    exact ⟨congrArg (· + 1) hbits, by rw [hshifter, BitVec.shiftLeft_add]⟩

/-- Settles O55: after `k - 1` shift events bit `8 - k` stands at bit 7 of the shifter, where the `k`-th takes it. -/
theorem byteLeavesMsbFirst : Obligations.ByteLeavesMsbFirst := by
  intro s k hk hk8
  obtain ⟨k, rfl⟩ : ∃ j, k = j + 1 := ⟨k - 1, by omega⟩
  obtain ⟨-, hshifter⟩ := shiftOut_iterate (s := s) (show k ≤ 7 by omega)
  obtain ⟨hsp, -⟩ := shiftOut_pins (shiftOut^[k] (loadShifter s))
  rw [Function.iterate_succ_apply', hsp, hshifter]
  simp only [BitVec.getLsbD_shiftLeft, BitVec.getLsbD_setWidth]
  simp [show ¬ 7 < k by omega, show 7 - k < 16 by omega]

/-! ## A byte in, bit by bit -/

/-- Settles O56: in input mode the bit clock does nothing, and the edge shifts in. -/
theorem countPinEdgeShiftsIn : Obligations.CountPinEdgeShiftsIn := by
  intro s h hc hin
  obtain ⟨t, hexec, ht⟩ := exec_cnt_serialSide h hc
  rw [clockedIf_of_idle _ (sdrClock_of_serialIn hin), shiftInIfInput, if_pos hin, sdrShiftIn_serialSide] at ht
  obtain ⟨hport, hshadow, hsp, hcnt, hevents⟩ := State.of_serialSide_eq ht
  exact ⟨t, hexec, hport, hshadow, hsp, hcnt, hevents⟩

/-- The state in which the rising edge of a round finds the block: SP at its bit, CNT low. -/
def State.beforeEdge (s : State) (b : Bool) : State := { s with cia.sp := b, cia.cnt := false, ret := none }

theorem execList_beforeEdge (s : State) (b : Bool) : execList [.sp b, .cnt false] s = .next (s.beforeEdge b) := by
  have hlow := countPinRecordsLevel false { s.silent with cia.sp := b } (.inr (.inr rfl))
  exact (execList_append (is := [.sp b]) rfl).trans (execList_singleton hlow)

/-- One round of `SP b`, `CNT 0`, `CNT 1` on an enabled block in input mode shifts `b` in, and leaves the block so. -/
theorem exec_round {s : State} (b : Bool) (h : s.cia.enabled = true) (hin : s.serialIn = true) : ∃ t,
    execList [.sp b, .cnt false, .cnt true] s = .next t ∧ t.cia.enabled = true ∧ t.serialIn = true ∧
    t.cia.sdr = s.cia.sdr.shiftedIn b ∧
    t.cia.regs.sdr = if s.cia.sdr.bits = 7 then s.cia.sdr.shifter.extractLsb' 0 7 ++ BitVec.ofBool b
      else s.cia.regs.sdr := by
  obtain ⟨t, hedge, hport, hshadow, -⟩ := countPinEdgeShiftsIn (s.beforeEdge b) h rfl hin
  obtain ⟨u, hedge', -, hframe, -⟩ := countPinEdgeInterrupts (s.beforeEdge b) h rfl
  cases hedge.symm.trans hedge'
  have hrun := (execList_append (js := [.cnt true]) (execList_beforeEdge s b)).trans (execList_singleton hedge)
  have henabled := (clockFrame_enabled hframe).trans h
  obtain ⟨-, hcra, -⟩ := hframe
  have hout : t.serialOut = s.serialOut := hcra 6 (by decide) (by decide)
  have hmode : t.serialIn = true := by
    rw [State.serialIn, hout, hport]
    exact hin
  exact ⟨t, hrun, henabled, hmode, hport, hshadow⟩

/-- The stimulus of `n` bits of `d`, from bit 7 down. -/
def bitRounds (d : Byte) (n : Nat) : List Instr :=
  (List.range n).flatMap fun k => [.sp (d.getLsbD (7 - k)), .cnt false, .cnt true]

theorem bitRounds_succ (d : Byte) (n : Nat) :
    bitRounds d (n + 1) = bitRounds d n ++ [.sp (d.getLsbD (7 - n)), .cnt false, .cnt true] := by
  simp only [bitRounds, List.range_succ, List.flatMap_append, List.flatMap_cons, List.flatMap_nil, List.append_nil]

/-- The block `t` in input mode holds the upper `n` bits of `d`, and `queued` still in `SDR`. -/
structure Received (d queued : Byte) (n : Nat) (t : State) : Prop where
  enabled : t.cia.enabled = true
  serialIn : t.serialIn = true
  bits : t.cia.sdr.bits = n
  upper : ∀ j, j < n → t.cia.sdr.shifter.getLsbD j = d.getLsbD (8 - n + j)
  shadow : t.cia.regs.sdr = queued

/-- Before the eighth round the bits gather in the shifter (R223). -/
theorem execList_bitRounds {s : State} (d : Byte) (h : s.cia.enabled = true) (hin : s.serialIn = true)
    (hbits : s.cia.sdr.bits = 0) {n : Nat} (hn : n ≤ 7) : ∃ t,
    execList (bitRounds d n) s = .next t ∧ Received d s.cia.regs.sdr n t := by
  induction n with
  | zero => exact ⟨s, rfl, h, hin, hbits, fun j hj => absurd hj (Nat.not_lt_zero j), rfl⟩
  | succ n ih =>
    obtain ⟨u, hrun, hu⟩ := ih (by omega)
    obtain ⟨t, hround, henabled, hmode, hport, hshadow⟩ := exec_round (d.getLsbD (7 - n)) hu.enabled hu.serialIn
    have hne : u.cia.sdr.bits ≠ 7 := by rw [hu.bits]; omega
    refine ⟨t, ?_, henabled, hmode, ?_, fun j hj => ?_, ?_⟩
    · rw [bitRounds_succ, execList_append hrun, hround]
    · rw [hport]
      exact (if_neg hne).trans (congrArg (· + 1) hu.bits)
    · rw [hport, Sdr.shiftedIn]
      cases j with
      | zero =>
        rw [getLsbD_zero_shiftedIn]
        exact congrArg d.getLsbD (by omega)
      | succ j =>
        rw [getLsbD_succ_shiftedIn _ _ (by omega), hu.upper j (by omega)]
        exact congrArg d.getLsbD (by omega)
    · rw [hshadow, if_neg hne, hu.shadow]

/-- Settles O57: seven rounds gather seven bits, and the eighth puts the byte together. -/
theorem byteArrivesMsbFirst : Obligations.ByteArrivesMsbFirst := by
  intro s d n h hin hbits hn
  change ∃ t, execList (bitRounds d n) s = .next t ∧ _
  by_cases h8 : n = 8
  · subst h8
    obtain ⟨u, hrun, hu⟩ := execList_bitRounds d h hin hbits (le_refl 7)
    obtain ⟨t, hround, -, -, -, hshadow⟩ := exec_round (d.getLsbD (7 - 7)) hu.enabled hu.serialIn
    refine ⟨t, by rw [bitRounds_succ, execList_append hrun, hround], ?_⟩
    rw [hshadow, if_pos hu.bits, if_pos rfl]
    apply BitVec.eq_of_getLsbD_eq
    intro j hj
    cases j with
    | zero => rw [getLsbD_zero_shiftedIn]
    | succ j =>
      rw [getLsbD_succ_shiftedIn _ _ (by omega), hu.upper j (by omega)]
      exact congrArg d.getLsbD (by omega)
  · obtain ⟨t, hrun, ht⟩ := execList_bitRounds d h hin hbits (show n ≤ 7 by omega)
    exact ⟨t, hrun, by rw [if_neg h8, ht.shadow]⟩

end Sys2Proof.Machine
end

section
/-! SUPPORT. The interrupt control register's store and acknowledge, and the FLAG pin (44_icr.md R240 to R247). -/

namespace Sys2Proof.Machine

/-! ## The mask command (R243) -/

/-- `Evaluate()` asserts exactly where some source is enabled and pending and IR is clear (R242). -/
theorem State.asserts_iff (s : State) :
    s.asserts = true ↔ s.cia.icr.sources &&& s.cia.icr.mask ≠ 0#5 ∧ s.cia.icr.flags.getLsbD 7 = false := by
  rw [State.asserts, Bool.and_eq_true, Bool.not_eq_true']
  exact and_congr_left' bne_iff_ne

/-- The state in which `ST.ICR v` evaluates the interrupt line. -/
def State.maskStored (v : Byte) (s : State) : State :=
  { s.silent.setReg .icr v with cia.icr.mask := s.cia.icr.maskAfter v }

theorem exec_stIcr (v : Byte) (s : State) : exec (.stIcr v) s = .next (evaluateIrq (s.maskStored v)) := rfl

/-- Settles O58: the mask command bit by bit, and `Evaluate()` under the new mask; the flags it tests are those before
the store. -/
theorem maskStoreSetsOrClears : Obligations.MaskStoreSetsOrClears := by
  intro v s
  have hasserts := (s.maskStored v).asserts_iff
  refine ⟨_, exec_stIcr v s, ?_⟩
  rw [evaluateIrq_eq]
  simp only [hasserts]
  exact ⟨fun i hi => maskAfter_getLsbD s.cia.icr v i hi, rfl⟩

/-! ## The acknowledge (R244, R247) -/

/-- `LD.ICR` is the acknowledge, answering the flags as they were before it. -/
theorem exec_ldIcr (s : State) : exec .ldIcr s = .next ((releaseIrq s).loadView .icr s.cia.icr.byte) := rfl

/-- With no flag set and the line released there is nothing to acknowledge. -/
theorem releaseIrq_of_clear {s : State} (hflags : s.cia.icr.flags = 0) (hline : s.cia.irqOut = false) :
    releaseIrq s = s := by
  rw [releaseIrq, hline, if_neg Bool.false_ne_true, ← hflags]

/-- There `LD.ICR` answers `$00` and emits nothing. -/
theorem exec_ldIcr_of_clear {s : State} (hflags : s.cia.icr.flags = 0) (hline : s.cia.irqOut = false) :
    exec .ldIcr s = .next { s with cia.regs.icr := 0x00, ret := some 0x00 } := by
  have hbyte : s.cia.icr.byte = 0x00 := by rw [Icr.byte, hflags]; rfl
  rw [exec_ldIcr, releaseIrq_of_clear hflags hline, hbyte]
  rfl

/-- Settles O59: the first read is the acknowledge's law, and it leaves the second nothing to acknowledge. -/
theorem acknowledgeClearsAndReleases : Obligations.AcknowledgeClearsAndReleases := by
  intro s
  refine ⟨_, exec_ldIcr s, ?_⟩
  rw [releaseIrq_eq]
  exact ⟨rfl, exec_ldIcr_of_clear rfl rfl⟩

/-! ## The FLAG pin (R246) -/

theorem exec_flag_of_enabled {s : State} (h : s.cia.enabled = true) :
    exec .flag s = .next (raiseSource .flg s.silent) := if_pos h

/-- Settles O60: the edge is `RaiseSource` of FLG, and nothing else. -/
theorem flagEdgeLatchesFlg : Obligations.FlagEdgeLatchesFlg := by
  intro s h
  exact ⟨_, exec_flag_of_enabled h, raiseSource_sourcesFired s.silent .flg, raiseSource_assertsOnly .flg s.silent⟩

end Sys2Proof.Machine
end

section
/-! SUPPORT. Construction, `RESET`, `DISABLE` and what a disabled block does (45_system.md R260 to R262). -/

namespace Sys2Proof.Machine

/-! ## Construction (R260; 00_scope.md R8) -/

theorem modelOfTag_old : modelOfTag "OLD_6526" = .ok .old6526 := if_pos rfl

theorem modelOfTag_new : modelOfTag "NEW_6526A" = .ok .new6526A := by
  have hne : "NEW_6526A" ≠ "OLD_6526" := by decide
  rw [modelOfTag, if_neg hne, if_pos rfl]

theorem modelOfTag_of_ne {tag : String} (hold : tag ≠ "OLD_6526") (hnew : tag ≠ "NEW_6526A") :
    modelOfTag tag = .error (.invalidModelTag tag) := by
  rw [modelOfTag, if_neg hold, if_neg hnew]

/-- Construction is decided by the tag alone; the other parameters are handed over unchecked. -/
theorem construct_eq_map (tag : String) (k : IrqKind) (id loss delay : Nat) :
    construct tag k id loss delay = (modelOfTag tag).map fun m => .resetWith ⟨m, k, id, loss, delay⟩ := by
  rw [construct]
  cases modelOfTag tag <;> rfl

/-- Settles O9: `construct` follows the tag's model, and each tag is one branch of `modelOfTag`. -/
theorem constructionChecksModel : Obligations.ConstructionChecksModel := by
  refine ⟨fun k id loss delay => ⟨?_, ?_⟩, fun tag k id loss delay hold hnew => ?_, rfl, rfl⟩
  · rw [construct_eq_map, modelOfTag_old]; rfl
  · rw [construct_eq_map, modelOfTag_new]; rfl
  · rw [construct_eq_map, modelOfTag_of_ne hold hnew]; rfl

/-! ## RESET (R261) -/

theorem exec_reset (s : State) : exec .reset s = .next { announceReset s.silent with cia := .reset } := rfl

/-- Settles O10: the announcement's law, with the tests of the levels as propositions. -/
theorem resetOperation : Obligations.ResetOperation := by
  intro s
  rw [exec_reset, announceReset_eq]
  simp only [bne_iff_ne, Bool.not_eq_true', List.append_assoc]
  rfl

/-! ## DISABLE (R262) -/

section
variable {s : State} (h : s.cia.enabled = false)
include h

theorem exec_phi2_of_disabled : exec .phi2 s = .next s.silent := if_neg (Bool.eq_false_iff.mp h)

theorem exec_todtick_of_disabled : exec .todtick s = .next s.silent := if_neg (Bool.eq_false_iff.mp h)

theorem exec_flag_of_disabled : exec .flag s = .next s.silent := if_neg (Bool.eq_false_iff.mp h)

/-- The byte from the host is lost in both modes of the serial port. -/
theorem exec_setsdr_of_disabled (v : Byte) : exec (.setsdr v) s = .next s.silent :=
  if_neg fun haccepts => Bool.eq_false_iff.mp h (Bool.and_eq_true_iff.mp haccepts).1

/-- The four operations that the one flag gates. -/
theorem exec_of_frozen {i : Instr} (hi : frozenWhenDisabled i = true) : exec i s = .next s.silent := by
  cases i with
  | phi2 => exact exec_phi2_of_disabled h
  | todtick => exact exec_todtick_of_disabled h
  | flag => exact exec_flag_of_disabled h
  | setsdr v => exact exec_setsdr_of_disabled h v
  | _ => exact absurd hi Bool.false_ne_true

end

/-- Settles O11: the four gated operations do nothing, and a disabled block's `CNT` has no edge to count. -/
theorem disabledBlockIsPassive : Obligations.DisabledBlockIsPassive :=
  ⟨fun _ => rfl, fun s h => ⟨fun _ hi => exec_of_frozen h hi, fun level => countPinRecordsLevel level s (.inl h)⟩⟩

end Sys2Proof.Machine
end

section
/-! SUPPORT. What an operation writes that others leave, said once: beside its own write to the mask, the enabled flag,
the input levels or the acknowledged flags, every operation but `RESET` keeps these, and only sets flags and asserts
the line (60_exceptions.md R280, R285 to R288; 10_state.md R59, R62, R63). -/

namespace Sys2Proof.Machine

/-! ## What most operations keep -/

/-- The mask, the enabled flag, the input pins' levels, the parameters and the pending words. -/
structure Held where
  mask : BitVec 5
  enabled : Bool
  extA : Byte
  extB : Byte
  sp : Bool
  cnt : Bool
  cfg : Config
  script : List Word

def State.held (s : State) : Held :=
  ⟨s.cia.icr.mask, s.cia.enabled, s.cia.extA, s.cia.extB, s.cia.sp, s.cia.cnt, s.cfg, s.script⟩

/-- From `s` to `t` what is held stays and so does the returned byte, no flag is cleared, and the line is not
released. -/
structure Kept (s t : State) : Prop where
  held : t.held = s.held
  ret : t.ret = s.ret
  flags : s.cia.icr.flags &&& t.cia.icr.flags = s.cia.icr.flags
  line : s.cia.irqOut = true → t.cia.irqOut = true

theorem Kept.trans {s t u : State} (h : Kept s t) (k : Kept t u) : Kept s u where
  held := k.held.trans h.held
  ret := k.ret.trans h.ret
  flags := by rw [← h.flags, BitVec.and_assoc, k.flags]
  line := k.line ∘ h.line

theorem Kept.of_same {s t : State} (hheld : t.held = s.held) (hret : t.ret = s.ret)
    (hflags : t.cia.icr.flags = s.cia.icr.flags) (hline : t.cia.irqOut = s.cia.irqOut) : Kept s t :=
  ⟨hheld, hret, by rw [hflags, BitVec.and_self], hline.trans⟩

/-- An operation that answers one of two states. -/
theorem Kept.of_ite {c : Prop} [Decidable c] {s u v t : State}
    (h : (if c then .next u else .next v : Answer) = .next t) (hu : Kept s u) (hv : Kept s v) : Kept s t := by
  split at h <;> cases h
  · exact hu
  · exact hv

/-! ## Sources only set flags -/

/-- No bit is lost from `f` to `g`, bit by bit. -/
theorem and_eq_left_of_getLsbD {w : Nat} {f g : BitVec w} (h : ∀ i, i < w → f.getLsbD i = true → g.getLsbD i = true) :
    f &&& g = f := by
  apply BitVec.eq_of_getLsbD_eq
  intro i hi
  rw [BitVec.getLsbD_and]
  cases hset : f.getLsbD i
  · rfl
  · rw [h i hi hset]; rfl

/-- A flag that is set stays set whatever sources fire. -/
theorem flag_kept_of_sourcesFired {s t : State} {src : BitVec 5} {tbb : Bool} (h : sourcesFired s t src tbb) {i : Nat}
    (hi : i < 9) (hset : s.cia.icr.flags.getLsbD i = true) : t.cia.icr.flags.getLsbD i = true := by
  obtain ⟨-, hsources, hgap, hmark, hir, -, -⟩ := h
  by_cases hsrc : i < 5
  · have hbit := congrArg (fun v : BitVec 5 => v.getLsbD i) hsources
    simpa only [Icr.sources, BitVec.getLsbD_extractLsb', BitVec.getLsbD_or, hsrc, hset, decide_true, Bool.true_and,
      Nat.zero_add, Bool.true_or] using hbit
  · by_cases hlow : i < 7
    · have hbit := congrArg (fun v : BitVec 2 => v.getLsbD (i - 5)) hgap
      have hplace : 5 + (i - 5) = i := by omega
      have hin : i - 5 < 2 := by omega
      simpa only [BitVec.getLsbD_extractLsb', hplace, hin, hset, decide_true, Bool.true_and] using hbit
    · obtain rfl | rfl : i = 7 ∨ i = 8 := by omega
      · have hs : s.cia.icr.ir = true := hset
        rw [hs, Bool.true_or] at hir
        exact hir
      · rw [hmark, hset, Bool.true_or]

theorem Kept.of_sourcesFired {s t : State} {src : BitVec 5} {tbb : Bool} (hheld : t.held = s.held)
    (hret : t.ret = s.ret) (h : sourcesFired s t src tbb) : Kept s t where
  held := hheld
  ret := hret
  flags := and_eq_left_of_getLsbD fun _ hi hset => flag_kept_of_sourcesFired h hi hset
  line := fun hs => by
    obtain ⟨-, -, -, -, -, hline, -⟩ := h
    rw [hline, hs, Bool.true_or]

theorem raiseSource_kept (src : Source) (s : State) : Kept s (raiseSource src s) := by
  have hfired := raiseSource_sourcesFired s src
  rw [raiseSource_eq] at hfired ⊢
  exact .of_sourcesFired rfl rfl hfired

theorem evaluateIrq_kept (s : State) : Kept s (evaluateIrq s) := by
  unfold evaluateIrq
  split
  · have habsorb : s.cia.icr.flags &&& (s.cia.icr.flags ||| 0x080#9) = s.cia.icr.flags := by
      apply and_eq_left_of_getLsbD
      intro i _ hset
      rw [BitVec.getLsbD_or, hset, Bool.true_or]
    exact ⟨rfl, rfl, habsorb, fun _ => rfl⟩
  · exact .of_same rfl rfl rfl rfl

theorem todTick_kept (s : State) : Kept s (todTick s) := by
  have hfired := todTick_fired s
  obtain ⟨f, q, es, e⟩ := todTick_frame s
  rw [e] at hfired ⊢
  exact .of_sourcesFired rfl rfl hfired

/-- Of what is held, the frame of `PHI2` and `CNT` leaves open only the level of CNT. -/
theorem held_of_clockFrame {s t : State} (h : clockFrame s.cia t.cia) (hcfg : t.cfg = s.cfg)
    (hscript : t.script = s.script) : t.held = { s.held with cnt := t.cia.cnt } := by
  obtain ⟨h, -, -⟩ := h
  rw [State.held, State.held, hcfg, hscript, h]

/-! ## An operation's own write -/

/-- The byte an operation returns (00_scope.md R12). -/
def State.returned (s : State) : Shape → Option Byte
  | .load r | .peek r => some (s.busByte r)
  | .store _ _ | .event _ => none

/-- The one write that an operation alone may make to what the others keep. -/
def State.ownWrite (s : State) : Instr → State
  | .ldIcr => { s with cia.icr.flags := 0, cia.irqOut := false }
  | .stIcr v => { s with cia.icr.mask := s.cia.icr.maskAfter v }
  | .cnt level => { s with cia.cnt := level }
  | .sp level => { s with cia.sp := level }
  | .pina v => { s with cia.extA := v }
  | .pinb v => { s with cia.extB := v }
  | .disable => { s with cia.enabled := false }
  | _ => s

/-- The state with the operation's own write and the byte it returns. -/
def State.written (s : State) (i : Instr) : State := { s.ownWrite i with ret := s.returned i.shape }

theorem exec_load_kept {r : Reg} {s t : State} (h : exec (.ofLoad r) s = .next t) :
    Kept (s.written (.ofLoad r)) t := by
  cases r with
  | icr => cases h; rw [releaseIrq_eq]; exact .of_same rfl rfl rfl rfl
  | todhr => cases h; exact .of_same rfl (congrArg some (takeHold_snap_get s .hr)) rfl rfl
  | _ => cases h; exact .of_same rfl rfl rfl rfl

theorem exec_peek_kept {r : Reg} {s t : State} (h : exec (.ofPeek r) s = .next t) :
    Kept (s.written (.ofPeek r)) t := by
  cases r with
  | _ => cases h; exact .of_same rfl rfl rfl rfl

theorem exec_store_kept {r : Reg} {v : Byte} {s t : State} (h : exec (.ofStore r v) s = .next t) :
    Kept (s.written (.ofStore r v)) t := by
  cases r with
  | pra | ddra => cases h; rw [updatePortA_eq]; exact .of_same rfl rfl rfl rfl
  | prb | ddrb => cases h; rw [updatePortB_eq]; exact .of_same rfl rfl rfl rfl
  | talo | tahi => cases (storeLatch_eq .a _ v _ s).symm.trans h; exact .of_same rfl rfl rfl rfl
  | tblo | tbhi => cases (storeLatch_eq .b _ v _ s).symm.trans h; exact .of_same rfl rfl rfl rfl
  | tod10 | todsec | todmin | todhr => cases h; rw [todStore_eq]; exact .of_same rfl rfl rfl rfl
  | sdr => exact .of_ite h (.of_same rfl rfl rfl rfl) (.of_same rfl rfl rfl rfl)
  | icr =>
    have hmask : Kept (s.written (.stIcr v)) (s.maskStored v) := .of_same rfl rfl rfl rfl
    cases (exec_stIcr v s).symm.trans h
    exact hmask.trans (evaluateIrq_kept _)
  | cra =>
    obtain ⟨d, hd⟩ := storeCra_eq v s
    cases h
    rw [hd, updatePortB_eq]; exact .of_same rfl rfl rfl rfl
  | crb => cases h; rw [storeCrb_eq, updatePortB_eq]; exact .of_same rfl rfl rfl rfl

theorem execPhi2_kept {s t : State} (h : exec .phi2 s = .next t) : Kept (s.written .phi2) t := by
  cases he : s.cia.enabled
  · cases (exec_phi2_of_disabled he).symm.trans h
    exact .of_same rfl rfl rfl rfl
  · obtain ⟨u, hexec, hfired⟩ := clockCycleInterrupts s he
    obtain ⟨u', hexec', hframe, -, hcnt, -, -, hcfg, hscript, hret⟩ := clockCycleFrame s he
    cases hexec.symm.trans h
    cases hexec'.symm.trans h
    have hheld := held_of_clockFrame hframe hcfg hscript
    rw [hcnt] at hheld
    exact .of_sourcesFired hheld hret hfired

theorem execCnt_kept {level : Bool} {s t : State} (h : exec (.cnt level) s = .next t) :
    Kept (s.written (.cnt level)) t := by
  by_cases hquiet : s.cia.enabled = false ∨ s.cia.cnt = true ∨ level = false
  · cases (countPinRecordsLevel level s hquiet).symm.trans h
    exact .of_same rfl rfl rfl rfl
  · simp only [not_or, Bool.not_eq_false, Bool.not_eq_true] at hquiet
    obtain ⟨he, hc, rfl⟩ := hquiet
    obtain ⟨u, hexec, hfired, hframe, hcnt, -, -, hcfg, hscript, hret⟩ := countPinEdgeInterrupts s he hc
    cases hexec.symm.trans h
    have hheld := held_of_clockFrame hframe hcfg hscript
    rw [hcnt] at hheld
    exact .of_sourcesFired hheld hret hfired

theorem exec_event_kept {e : Event} {s t : State} (hr : e ≠ .reset) (h : exec (.ofEvent e) s = .next t) :
    Kept (s.written (.ofEvent e)) t := by
  cases e with
  | phi2 => exact execPhi2_kept h
  | todtick => exact .of_ite h (todTick_kept s.silent) (.of_same rfl rfl rfl rfl)
  | cnt level => exact execCnt_kept h
  | flag => exact .of_ite h (raiseSource_kept .flg s.silent) (.of_same rfl rfl rfl rfl)
  | setsdr v =>
    have hbyte : Kept (s.written (.setsdr v)) { s.silent.setReg .sdr v with cia.sdr.bits := 0 } :=
      .of_same rfl rfl rfl rfl
    exact .of_ite h (hbyte.trans (raiseSource_kept .sdr _)) (.of_same rfl rfl rfl rfl)
  | reset => exact absurd rfl hr
  | sp | pina | pinb | disable => cases h; exact .of_same rfl rfl rfl rfl

/-- Every operation but `RESET` makes its own write and returns its byte; else it keeps what is held, clears no flag and
does not release the line. -/
theorem exec_kept {i : Instr} {s t : State} (hr : i ≠ .reset) (h : exec i s = .next t) : Kept (s.written i) t := by
  rw [← Instr.ofShape_shape i] at hr h ⊢
  generalize i.shape = x at hr h ⊢
  cases x with
  | load r => exact exec_load_kept h
  | store r v => exact exec_store_kept h
  | peek r => exact exec_peek_kept h
  | event e => exact exec_event_kept (fun he => hr (congrArg Instr.ofEvent he)) h

/-! ## Flags and the line (60_exceptions.md R285, R286) -/

/-- Only the acknowledge writes the flags or the line for itself. -/
theorem written_of_ne_ldIcr (s : State) {i : Instr} (h : i ≠ .ldIcr) :
    (s.written i).cia.icr.flags = s.cia.icr.flags ∧ (s.written i).cia.irqOut = s.cia.irqOut := by
  cases i with
  | ldIcr => exact absurd rfl h
  | _ => exact ⟨rfl, rfl⟩

/-- Settles O19: beside its own write an operation clears no flag and does not release the line, and only the own write
of `LD.ICR` reaches them. -/
theorem onlyAcknowledgeClearsFlags : Obligations.OnlyAcknowledgeClearsFlags := by
  intro i s t hl hr h
  obtain ⟨-, -, hflags, hline⟩ := exec_kept hr h
  obtain ⟨eflags, eline⟩ := written_of_ne_ldIcr s hl
  rw [eflags] at hflags
  rw [eline] at hline
  exact ⟨hflags, hline⟩

/-! ## One writer each (60_exceptions.md R285, R288; 10_state.md R59, R62, R63) -/

/-- Settles O20: what is held after the operation is what its own write left, and each field is in one own write. -/
theorem maskEnableAndPinsHaveOneWriter : Obligations.MaskEnableAndPinsHaveOneWriter := by
  intro i s t hr h
  have hheld := (exec_kept hr h).held
  refine ⟨fun hi => (congrArg Held.mask hheld).trans ?_, fun hi => (congrArg Held.enabled hheld).trans ?_,
    fun hi => (congrArg Held.extA hheld).trans ?_, fun hi => (congrArg Held.extB hheld).trans ?_,
    fun hi => (congrArg Held.sp hheld).trans ?_, fun hi => (congrArg Held.cnt hheld).trans ?_⟩
  · cases i with
    | stIcr v => exact absurd rfl (hi v)
    | _ => rfl
  · cases i with
    | disable => exact absurd rfl hi
    | _ => rfl
  · cases i with
    | pina v => exact absurd rfl (hi v)
    | _ => rfl
  · cases i with
    | pinb v => exact absurd rfl (hi v)
    | _ => rfl
  · cases i with
    | sp b => exact absurd rfl (hi b)
    | _ => rfl
  · cases i with
    | cnt b => exact absurd rfl (hi b)
    | _ => rfl

/-! ## Every operation answers (60_exceptions.md R280) -/

/-- The clock's own effect emits nothing, and every move announces what it changes. -/
theorem Performed.announced {i : Instr} {s t : State} (h : Performed i s t) : Announced s t := by
  obtain ⟨u, ha, hb⟩ := h
  have htod : Announced s (s.withTodAfter i) := .of_same rfl rfl rfl rfl
  have hu : Announced s u := moves_keep (fun _ _ hm hs => hs.trans hm.announced) ha htod
  exact moves_keep (fun _ _ hm hs => hs.trans hm.announced) hb hu

/-- No own write reaches the parameters or the pending words. -/
theorem written_cfg_script (s : State) (i : Instr) :
    (s.written i).cfg = s.cfg ∧ (s.written i).script = s.script := by
  cases i <;> exact ⟨rfl, rfl⟩

/-- `RESET` leaves what is around the block, and returns no byte (00_scope.md R6, R12). -/
theorem execReset_around {s t : State} (h : exec .reset s = .next t) :
    t.cfg = s.cfg ∧ t.script = s.script ∧ t.ret = none := by
  cases h
  rw [announceReset_eq]
  exact ⟨rfl, rfl, rfl⟩

/-- Settles O18: every operation but `RESET` performs moves, each of which appends to the trace, and keeps what is held
beside its own write; `RESET` announces its changes. -/
theorem everyOperationAnswers : Obligations.EveryOperationAnswers := by
  intro i s
  by_cases hr : i = .reset
  · subst hr
    obtain ⟨es, htrace, -⟩ := execReset_announced (exec_reset s)
    obtain ⟨hcfg, hscript, hret⟩ := execReset_around (exec_reset s)
    exact ⟨_, exec_reset s, hcfg, hscript, ⟨es, htrace⟩, by rw [hret]; rfl⟩
  · obtain ⟨t, h, hp⟩ := exec_performed i hr s
    obtain ⟨es, htrace, -⟩ := hp.announced
    obtain ⟨hheld, hret, -, -⟩ := exec_kept hr h
    obtain ⟨ecfg, escript⟩ := written_cfg_script s i
    refine ⟨t, h, (congrArg Held.cfg hheld).trans ecfg, (congrArg Held.script hheld).trans escript, ⟨es, htrace⟩, ?_⟩
    rw [hret]
    change (s.returned i.shape).isSome = _
    cases i.shape <;> rfl

end Sys2Proof.Machine
end
